-- ==== Sys2Proof/Word.lean ====
section
/-! DEFINITION. The types of the machine's words: spec/10_state.md rule R20, spec/20_memory.md rule
R63, spec/30_encoding.md rules R90, R91. How much of a `Half`, a `Word` and an `Offset` a platform
uses is a parameter (Config.lean). -/

namespace Sys2Proof

/-- One transfer unit: TXB, RXB, SHR (10_state.md R24 to R26). -/
abbrev Byte := BitVec 8

/-- What an access of 2 bytes carries: a register of `REGW` bits stands in its low bits (20_memory.md
R63). -/
abbrev Half := BitVec 16

/-- What an access of 4 bytes carries: the bus brings its low `BUSW` bits (20_memory.md R63). -/
abbrev Word := BitVec 32

/-- The offset field of an access (30_encoding.md R91): the window uses its low `AW` bits. -/
abbrev Offset := BitVec 10

/-- A step record (30_encoding.md R90). -/
abbrev Record := BitVec 48

end Sys2Proof
end

