-- ==== Sys2Proof/Config.lean ====
section
/-! DEFINITION. What the platform fixes (spec/00_scope.md rules R10, R11) and the free values
(spec/00_scope.md rule R13, `draw(N)`; spec/60_exceptions.md rule R233). -/

namespace Sys2Proof

/-- What a frame that completes on a full RXB does (42_serializer.md R184). -/
inductive RxOverrun
  | overwrite  -- RXB takes the new byte
  | keepOld    -- RXB keeps the old byte
  deriving DecidableEq, Repr

/-- The parameters of 00_scope.md R10, but for `FRAME_BITS`, which the source fixes at 8. They are
fixed for a run; a statement about every state is a statement about every value of them (log entry
1). The bounds in the types are those of format H of 30_encoding.md R91 and of 20_memory.md R63
(log entry 21). -/
structure Config where
  /-- `SPI_BASE`, a byte address (20_memory.md R60). -/
  spiBase : Nat
  /-- `AW`: the window has 2^AW bytes (20_memory.md R60); format H holds 10 offset bits. -/
  aw : Fin 11
  offCr : Offset
  offSr : Offset
  offDr : Offset
  /-- `REGW`: both admitted sizes carry the whole register (20_memory.md R63). -/
  regw : Fin 17
  /-- `BUSW`. -/
  busw : Nat
  crMstr : Fin 16
  /-- `CR_BR_LO`. -/
  crBrLo : Fin 16
  /-- `BRW`. -/
  brw : Fin 17
  crSpe : Fin 16
  crSsi : Fin 16
  crSsm : Fin 16
  srRxne : Fin 16
  srTxe : Fin 16
  srBsy : Fin 16
  rxOverrun : RxOverrun
  /-- The byte `receive` transmits by convention (43_driver_sequences.md R205). -/
  dummy : Byte
  /-- `DIV`, the clock ratio of each divisor code in turn (42_serializer.md R171). -/
  div : List Nat
  /-- `CPOL`: the level at which sck rests (10_state.md R34). -/
  cpol : Bool
  /-- `CPHA`: false where both sides sample on the first edge of a clock period (42_serializer.md
  R182); true, where they sample on the second, is PRESUMED (log entry 20). -/
  cpha : Bool
  /-- `MSB_FIRST` (42_serializer.md R182); its value false is PRESUMED (log entry 20). -/
  msbFirst : Bool
  deriving DecidableEq, Repr

/-- The defaults of 00_scope.md R10. PRESUMED by the spec itself (marked GK there: the STM32F4
family) for all but the overrun behaviour, the dummy byte and the divisor table; log entry 2. -/
def Config.default : Config where
  spiBase := 0x40013000
  aw := 10
  offCr := 0x00
  offSr := 0x08
  offDr := 0x0C
  regw := 16
  busw := 32
  crMstr := 2
  crBrLo := 3
  brw := 3
  crSpe := 6
  crSsi := 8
  crSsm := 9
  srRxne := 0
  srTxe := 1
  srBsy := 7
  rxOverrun := .overwrite
  dummy := 0xFF
  div := [4, 8, 16, 32, 64, 128, 256, 512]
  cpol := false
  cpha := false
  msbFirst := true

/-- 20_memory.md R61: the three offsets are distinct and each a multiple of 4. -/
abbrev Config.OffsetsWF (c : Config) : Prop :=
  c.offCr ≠ c.offSr ∧ c.offCr ≠ c.offDr ∧ c.offSr ≠ c.offDr ∧
  c.offCr.toNat % 4 = 0 ∧ c.offSr.toNat % 4 = 0 ∧ c.offDr.toNat % 4 = 0

/-- The three registers stand inside the window of 2^AW bytes (20_memory.md R60, R61). -/
abbrev Config.WindowWF (c : Config) : Prop :=
  c.offCr.toNat < 2 ^ c.aw.val ∧ c.offSr.toNat < 2 ^ c.aw.val ∧ c.offDr.toNat < 2 ^ c.aw.val

/-- A register holds a byte of data and the bus carries a register (20_memory.md R63). DEDUCED; log
entry 21. -/
abbrev Config.WidthsWF (c : Config) : Prop := 8 ≤ c.regw.val ∧ c.regw.val ≤ c.busw

/-- Bit p of CR lies outside the divisor field. -/
abbrev Config.OutsideBr (c : Config) (p : Fin 16) : Prop :=
  p.val < c.crBrLo.val ∨ c.crBrLo.val + c.brw.val ≤ p.val

/-- The fields of CR lie inside the register and no bit belongs to two of them (30_encoding.md R94).
DEDUCED from R97's and R178's "disjoint fields"; log entry 1. -/
abbrev Config.CrWF (c : Config) : Prop :=
  c.crMstr ≠ c.crSpe ∧ c.crMstr ≠ c.crSsi ∧ c.crMstr ≠ c.crSsm ∧
  c.crSpe ≠ c.crSsi ∧ c.crSpe ≠ c.crSsm ∧ c.crSsi ≠ c.crSsm ∧
  c.OutsideBr c.crMstr ∧ c.OutsideBr c.crSpe ∧ c.OutsideBr c.crSsi ∧ c.OutsideBr c.crSsm ∧
  c.crMstr.val < c.regw.val ∧ c.crSpe.val < c.regw.val ∧ c.crSsi.val < c.regw.val ∧
  c.crSsm.val < c.regw.val ∧ c.crBrLo.val + c.brw.val ≤ c.regw.val

/-- The flags of SR lie inside the register and no bit belongs to two of them (30_encoding.md
R95). -/
abbrev Config.SrWF (c : Config) : Prop :=
  c.srRxne ≠ c.srTxe ∧ c.srRxne ≠ c.srBsy ∧ c.srTxe ≠ c.srBsy ∧
  c.srRxne.val < c.regw.val ∧ c.srTxe.val < c.regw.val ∧ c.srBsy.val < c.regw.val

/-- `DIV` gives every code of the divisor field a ratio (42_serializer.md R171). -/
abbrev Config.DivWF (c : Config) : Prop := c.div.length = 2 ^ c.brw.val

/-- The parameters describe a block. -/
abbrev Config.WF (c : Config) : Prop :=
  c.OffsetsWF ∧ c.WindowWF ∧ c.WidthsWF ∧ c.CrWF ∧ c.SrWF ∧ c.DivWF

/-- A one-bit mask. -/
def Config.bit (p : Fin 16) : Half := 1#16 <<< p.val

/-- The divisor field as a mask: `BRW` ones from `CR_BR_LO` up. -/
def Config.brMask (c : Config) : Half := BitVec.ofNat 16 (2 ^ c.brw.val - 1) <<< c.crBrLo.val

/-- `CR_MODE`, the mode bits (00_scope.md R11). -/
def Config.crMode (c : Config) : Half :=
  bit c.crMstr ||| c.brMask ||| bit c.crSsi ||| bit c.crSsm

/-- `CR_EN` (00_scope.md R11). -/
def Config.crEn (c : Config) : Half := bit c.crSpe

/-- `CR_IMPL`, the implemented CR bits (00_scope.md R11). -/
def Config.crImpl (c : Config) : Half := c.crMode ||| c.crEn

/-- `SR_IMPL` (00_scope.md R11). -/
def Config.srImpl (c : Config) : Half := bit c.srRxne ||| bit c.srTxe ||| bit c.srBsy

/-- `DR_IMPL` (00_scope.md R11): one transfer unit of `FRAME_BITS` = 8 bits. -/
def Config.drImpl : Half := 0x00FF

/-- `DIV(code)` (42_serializer.md R171); none for a code that the table gives no ratio. -/
def Config.divOf (c : Config) (code : Nat) : Option Nat := c.div[code]?

/-- The bit of a byte that travels k-th on the serial wire, k from 0 (42_serializer.md R174 (a),
R182). -/
def Config.wireBit (c : Config) (k : Nat) : Nat := if c.msbFirst then 7 - k else k

/-- A free byte (60_exceptions.md R233): nothing constrains it. Safe; log entry 7. -/
opaque Config.freeByte : Nat → Byte

/-- A free bit. Safe; log entry 7. -/
opaque Config.freeBit : Nat → Bool

/-- A free 16-bit value. Safe; log entry 7. -/
opaque Config.freeHalf : Nat → Half

/-- A free 4-bit value. Safe; log entry 7. -/
opaque Config.freeNibble : Nat → BitVec 4

/-- A free natural number. Safe; log entry 7. -/
opaque Config.freeNat : Nat → Nat

end Sys2Proof
end

