-- ==== Sys2Proof/Syntax.lean ====
section
/-! DEFINITION. The steps of the machine, which stand where an ISA has instructions
(spec/00_scope.md rule R8), one constructor for each row of spec/opcode_table.json. -/

namespace Sys2Proof

/-- The `size` field of a HOST access (30_encoding.md R91): two values are admitted, two are not
(20_memory.md R64, 30_encoding.md R102). -/
inductive AccessSize
  | byte      -- 0b00, one byte: not admitted
  | half      -- 0b01, two bytes
  | word      -- 0b10, four bytes
  | reserved  -- 0b11: not admitted
  deriving DecidableEq, Repr

/-- One atomic step of one agent (00_scope.md R8). -/
inductive Instr
  /-- HOST reads CR (41_register_ops.md R147). -/
  | rdCr (size : AccessSize)
  /-- HOST writes CR (41_register_ops.md R146). -/
  | wrCr (size : AccessSize) (wdata : Word)
  /-- HOST reads SR (41_register_ops.md R148). -/
  | rdSr (size : AccessSize)
  /-- HOST writes SR (41_register_ops.md R149). -/
  | wrSr (size : AccessSize) (wdata : Word)
  /-- HOST reads DR (41_register_ops.md R151). -/
  | rdDr (size : AccessSize)
  /-- HOST writes DR (41_register_ops.md R150). -/
  | wrDr (size : AccessSize) (wdata : Word)
  /-- SEQ moves the staged byte into SHR (42_serializer.md R173). -/
  | hwLoad
  /-- SEQ shifts one bit out and the sampled bit m in (42_serializer.md R174). -/
  | hwShift (m : Bool)
  /-- SEQ ends the frame (42_serializer.md R175). -/
  | hwComplete
  /-- SEQ runs a whole frame in which the peer returns the byte r (42_serializer.md R176). -/
  | hwFrame (r : Byte)
  /-- ENV resets the block (70_reset_and_hazards.md R260). -/
  | envReset
  /-- ENV turns the block's clock on (40_clock_pin_gating.md R131). -/
  | envClkOn
  /-- ENV routes the three pins (40_clock_pin_gating.md R135). -/
  | envPins
  deriving DecidableEq, Repr

/-- Who takes a step (00_scope.md R9). -/
inductive Agent
  | host
  | seq
  | env
  deriving DecidableEq, Repr

/-- The agent of a step (30_encoding.md R90). -/
def Instr.agent : Instr → Agent
  | .rdCr _ => .host
  | .wrCr _ _ => .host
  | .rdSr _ => .host
  | .wrSr _ _ => .host
  | .rdDr _ => .host
  | .wrDr _ _ => .host
  | .hwLoad => .seq
  | .hwShift _ => .seq
  | .hwComplete => .seq
  | .hwFrame _ => .seq
  | .envReset => .env
  | .envClkOn => .env
  | .envPins => .env

/-- The access size of a HOST step, none for a step of another agent. -/
def Instr.size? : Instr → Option AccessSize
  | .rdCr z => some z
  | .wrCr z _ => some z
  | .rdSr z => some z
  | .wrSr z _ => some z
  | .rdDr z => some z
  | .wrDr z _ => some z
  | .hwLoad => none
  | .hwShift _ => none
  | .hwComplete => none
  | .hwFrame _ => none
  | .envReset => none
  | .envClkOn => none
  | .envPins => none

end Sys2Proof
end

