-- ==== Sys2Proof/WellFormed.lean ====
section
/-! DEFINITION. Which steps are admitted as syntax: a HOST access is of 2 or 4 bytes
(spec/20_memory.md rule R64). An access of another size decodes, so that its step can answer in
the order of checks of spec/60_exceptions.md rule R237, and is refused when it is taken. -/

namespace Sys2Proof

/-- 20_memory.md R64: halfword and word are admitted. -/
def AccessSize.admitted : AccessSize → Bool
  | .byte => false
  | .half => true
  | .word => true
  | .reserved => false

/-- The check of every HOST step; the other steps have no ill-formed term. -/
def Instr.wellFormed (i : Instr) : Bool :=
  match i.size? with
  | some z => z.admitted
  | none => true

end Sys2Proof
end

