-- ==== Sys2Proof/Decode.lean ====
section
/-! DEFINITION. The decoder of step records, total and rejecting by name, the address decoder of
the window, and after them the encoder: spec/30_encoding.md rules R90 to R93, R100 to R105,
spec/20_memory.md rules R60 to R64. -/

namespace Sys2Proof

/-- Why a record is invalid (30_encoding.md R105). -/
inductive InvalidRecord
  | reservedAgent       -- agent 0b11
  | hostBit42           -- format H with bit 42 = 1
  | readWithData        -- a read with nonzero data bits
  | seqNonzeroBits      -- format S with a nonzero bit in 43:8
  | shiftDataBits       -- HW_SHIFT with bits 7:1 nonzero
  | loadCompleteData    -- HW_LOAD or HW_COMPLETE with nonzero data
  | envReservedKind     -- format E with kind 0b11
  | envNonzeroBits      -- format E with a nonzero bit in 43:0
  deriving DecidableEq, Repr

/-- A HOST access as the bus shows it (20_memory.md R62): for a read, `wdata` is 0. -/
structure Access where
  we : Bool
  size : AccessSize
  offset : Offset
  wdata : Word
  deriving DecidableEq, Repr

/-- The decoder's answer: a step of the opcode table, a valid HOST record at an offset that holds
no register (41_register_ops.md R152), or an invalid record (30_encoding.md R105). -/
inductive Decoded
  | instr (i : Instr)
  | noRegister (a : Access)
  | invalid (why : InvalidRecord)
  deriving DecidableEq, Repr

/-- 30_encoding.md R91, bits 44:43. -/
def AccessSize.ofBits (b : BitVec 2) : AccessSize :=
  if b = 0b00#2 then .byte else if b = 0b01#2 then .half
  else if b = 0b10#2 then .word else .reserved

/-- 30_encoding.md R91, bits 44:43. -/
def AccessSize.toBits : AccessSize → BitVec 2
  | .byte => 0b00#2
  | .half => 0b01#2
  | .word => 0b10#2
  | .reserved => 0b11#2

/-- 20_memory.md R62: `we` and the exact offset choose the step; `size` does not. -/
def decodeAccess (c : Config) (a : Access) : Option Instr :=
  if a.offset = c.offCr then some (if a.we then .wrCr a.size a.wdata else .rdCr a.size)
  else if a.offset = c.offSr then some (if a.we then .wrSr a.size a.wdata else .rdSr a.size)
  else if a.offset = c.offDr then some (if a.we then .wrDr a.size a.wdata else .rdDr a.size)
  else none

/-- Format H, 30_encoding.md R91. -/
def decodeHost (c : Config) (r : Record) : Decoded :=
  let a : Access :=
    { we := r.getLsbD 45
      size := .ofBits (r.extractLsb' 43 2)
      offset := r.extractLsb' 32 10
      wdata := r.extractLsb' 0 32 }
  if r.getLsbD 42 then .invalid .hostBit42
  else if !a.we && a.wdata != 0 then .invalid .readWithData
  else match decodeAccess c a with
    | some i => .instr i
    | none => .noRegister a

/-- Format S, 30_encoding.md R92. -/
def decodeSeq (r : Record) : Decoded :=
  let kind := r.extractLsb' 44 2
  let data := r.extractLsb' 0 8
  if r.extractLsb' 8 36 ≠ 0 then .invalid .seqNonzeroBits
  else if kind = 0b00#2 then
    if data = 0 then .instr .hwLoad else .invalid .loadCompleteData
  else if kind = 0b01#2 then
    if data.extractLsb' 1 7 = 0 then .instr (.hwShift (data.getLsbD 0)) else .invalid .shiftDataBits
  else if kind = 0b10#2 then
    if data = 0 then .instr .hwComplete else .invalid .loadCompleteData
  else .instr (.hwFrame data)

/-- Format E, 30_encoding.md R93. -/
def decodeEnv (r : Record) : Decoded :=
  let kind := r.extractLsb' 44 2
  if kind = 0b11#2 then .invalid .envReservedKind
  else if r.extractLsb' 0 44 ≠ 0 then .invalid .envNonzeroBits
  else if kind = 0b00#2 then .instr .envReset
  else if kind = 0b01#2 then .instr .envClkOn
  else .instr .envPins

/-- 30_encoding.md R90: bits 47:46 name the agent. -/
def decode (c : Config) (r : Record) : Decoded :=
  let agent := r.extractLsb' 46 2
  if agent = 0b00#2 then decodeHost c r
  else if agent = 0b01#2 then decodeSeq r
  else if agent = 0b10#2 then decodeEnv r
  else .invalid .reservedAgent

/-- The step read from a record written as the opcode table numbers its bits; bits from nbits up
are 0. -/
def decodeTableWord (nbits w : Nat) : Option Instr :=
  match decode Config.default (BitVec.ofNat 48 (w % 2 ^ nbits)) with
  | .instr i => some i
  | .noRegister _ => none
  | .invalid _ => none

/-! ## The window, from the bus -/

/-- 20_memory.md R60: the offset of a byte address inside the window of 2^AW bytes. -/
def windowOffset (c : Config) (addr : Nat) : Option Offset :=
  if c.spiBase ≤ addr ∧ addr < c.spiBase + 2 ^ c.aw.val then some (BitVec.ofNat 10 (addr - c.spiBase))
  else none

/-- The `size` field for an access of n bytes (30_encoding.md R91). -/
def AccessSize.ofBytes (n : Nat) : AccessSize :=
  if n = 1 then .byte else if n = 2 then .half else if n = 4 then .word else .reserved

/-- 00_scope.md R13, `MemRead(addr, n)`; none outside the window, which is the platform's. -/
def memRead (c : Config) (addr n : Nat) : Option Access :=
  (windowOffset c addr).map fun o => { we := false, size := .ofBytes n, offset := o, wdata := 0 }

/-- 00_scope.md R13, `MemWrite(addr, n, v)`; none outside the window, which is the platform's. -/
def memWrite (c : Config) (addr n : Nat) (v : Word) : Option Access :=
  (windowOffset c addr).map fun o => { we := true, size := .ofBytes n, offset := o, wdata := v }

/-! ## The encoder -/

/-- Format H, 30_encoding.md R91; the agent's bits 47:46 are 0b00 and bit 42 is 0. -/
def encodeAccess (a : Access) : Record :=
  ((BitVec.ofBool a.we).setWidth 48 <<< 45) ||| (a.size.toBits.setWidth 48 <<< 43) |||
    (a.offset.setWidth 48 <<< 32) ||| a.wdata.setWidth 48

/-- Format S, 30_encoding.md R92. -/
def encodeSeq (kind : BitVec 2) (data : Byte) : Record :=
  (0b01#48 <<< 46) ||| (kind.setWidth 48 <<< 44) ||| data.setWidth 48

/-- Format E, 30_encoding.md R93. -/
def encodeEnv (kind : BitVec 2) : Record :=
  (0b10#48 <<< 46) ||| (kind.setWidth 48 <<< 44)

/-- The record of a step (30_encoding.md R91 to R93, R100). -/
def encode (c : Config) : Instr → Record
  | .rdCr z => encodeAccess { we := false, size := z, offset := c.offCr, wdata := 0 }
  | .wrCr z v => encodeAccess { we := true, size := z, offset := c.offCr, wdata := v }
  | .rdSr z => encodeAccess { we := false, size := z, offset := c.offSr, wdata := 0 }
  | .wrSr z v => encodeAccess { we := true, size := z, offset := c.offSr, wdata := v }
  | .rdDr z => encodeAccess { we := false, size := z, offset := c.offDr, wdata := 0 }
  | .wrDr z v => encodeAccess { we := true, size := z, offset := c.offDr, wdata := v }
  | .hwLoad => encodeSeq 0b00#2 0
  | .hwShift m => encodeSeq 0b01#2 ((BitVec.ofBool m).setWidth 8)
  | .hwComplete => encodeSeq 0b10#2 0
  | .hwFrame r => encodeSeq 0b11#2 r
  | .envReset => encodeEnv 0b00#2
  | .envClkOn => encodeEnv 0b01#2
  | .envPins => encodeEnv 0b10#2

/-! ## The opcode table -/

/-- The match and mask of a step's row (30_encoding.md R100), under the default offsets. -/
def tableRow : Instr → Record × Record
  | .rdCr _ => (0x000000000000, 0xE7FFFFFFFFFF)
  | .wrCr _ _ => (0x200000000000, 0xE7FF00000000)
  | .rdSr _ => (0x000800000000, 0xE7FFFFFFFFFF)
  | .wrSr _ _ => (0x200800000000, 0xE7FF00000000)
  | .rdDr _ => (0x000C00000000, 0xE7FFFFFFFFFF)
  | .wrDr _ _ => (0x200C00000000, 0xE7FF00000000)
  | .hwLoad => (0x400000000000, 0xFFFFFFFFFFFF)
  | .hwShift _ => (0x500000000000, 0xFFFFFFFFFFFE)
  | .hwComplete => (0x600000000000, 0xFFFFFFFFFFFF)
  | .hwFrame _ => (0x700000000000, 0xFFFFFFFFFF00)
  | .envReset => (0x800000000000, 0xFFFFFFFFFFFF)
  | .envClkOn => (0x900000000000, 0xFFFFFFFFFFFF)
  | .envPins => (0xA00000000000, 0xFFFFFFFFFFFF)

/-- 30_encoding.md R100: a record r selects a row when `r & mask = match`. -/
abbrev SelectsRowOf (r : Record) (i : Instr) : Prop := r &&& (tableRow i).2 = (tableRow i).1

end Sys2Proof
end

