-- ==== Sys2Proof/Machine/State.lean ====
section
/-! DEFINITION. The state of the machine as plain data (spec/10_state.md rule R20), the reasons a
step stops (spec/60_exceptions.md rules R231, R232) and the state after reset
(spec/10_state.md rule R40). -/

namespace Sys2Proof.Machine

/-- The sequencer's phase (10_state.md R27). -/
inductive Phase
  | idle   -- no frame in the shift register
  | shift  -- a frame is in the shift register
  deriving DecidableEq, Repr

/-- The kinds of model fault (60_exceptions.md R231, MF1 to MF5). -/
inductive FaultKind
  | unclockedAccess
  | txOverwrite
  | configChangeWhileBusy
  | modeChangeWhileEnabled
  | modeFaultConfig
  deriving DecidableEq, Repr

/-- The set `faults` of fault kinds recorded so far (10_state.md R20): one mark for each kind, so
that equal sets are equal data. -/
structure FaultMarks where
  unclockedAccess : Bool
  txOverwrite : Bool
  configChangeWhileBusy : Bool
  modeChangeWhileEnabled : Bool
  modeFaultConfig : Bool
  deriving DecidableEq, Repr

/-- What a step gives out beside the next state (00_scope.md R14): the value of a read
(30_encoding.md R91), or what the peer samples while the pins are routed (42_serializer.md R174,
R176). -/
inductive Output
  | nothing
  | readValue (v : Word)
  | peerBit (b : Bool)
  | peerByte (b : Byte)
  deriving DecidableEq, Repr

/-- A model fault with the value recorded (60_exceptions.md R231). All are safe: the machine stops
where the spec defines no next state (log entry 9). -/
inductive Fault
  /-- MF1, raised by any HOST step while clk_en = 0; records the step record. Safe. -/
  | unclockedAccess (record : Record)
  /-- MF2, raised by WR_DR while txb_full = 1; records the data and the old TXB. Safe. -/
  | txOverwrite (data oldTxb : Byte)
  /-- MF3, raised by WR_CR while phase = SHIFT; records old CR and new value. Safe. -/
  | configChangeWhileBusy (oldCr newCr : Half)
  /-- MF4, raised by WR_CR when the new SPE = 1 and a mode bit differs from CR; records old CR and
  new value. Safe. -/
  | modeChangeWhileEnabled (oldCr newCr : Half)
  /-- MF5, raised by WR_CR when the new SPE = 1, MSTR = 1, SSM = 1, SSI = 0; records the new value.
  Safe. -/
  | modeFaultConfig (newCr : Half)
  deriving DecidableEq, Repr

/-- Why the model gives a step no meaning (60_exceptions.md R232), or why a record is no step. All
are safe: the machine stops where the spec gives no effect (log entry 9, log entry 11). -/
inductive Refusal
  /-- RF1, raised by any HOST step whose size is not 2 or 4 bytes. Safe. -/
  | badAccessSize
  /-- RF2, raised by a HOST access at an offset that is not that of CR, SR or DR. Safe. -/
  | reservedOffset
  /-- RF3, raised by WR_CR with a 1 in a bit outside CR_IMPL. Safe. -/
  | reservedCrBits
  /-- RF4, raised by WR_CR when the new SPE = 1 and MSTR = 0. Safe. -/
  | slaveRole
  /-- RF5, raised by WR_CR when the new SPE = 1 and SSM = 0. Safe. -/
  | hardwareNss
  /-- Raised by the fetch of a record that 30_encoding.md R105 calls invalid. Safe. -/
  | invalidRecord (why : InvalidRecord)
  /-- Raised by HW_LOAD where its guard fails (42_serializer.md R173). Safe. -/
  | loadNotEnabled
  /-- Raised by HW_SHIFT where its guard fails (42_serializer.md R174). Safe. -/
  | shiftNotEnabled
  /-- Raised by HW_COMPLETE where its guard fails (42_serializer.md R175). Safe. -/
  | completeNotEnabled
  /-- Raised by HW_FRAME where its guard fails (42_serializer.md R176). Safe. -/
  | frameNotEnabled
  /-- Raised by exec for a step that has no meaning yet; no arm raises it. Safe. -/
  | notModelled (mnemonic : String)
  deriving DecidableEq, Repr

/-- The state tuple of 10_state.md R20, and the model's own fields after it. -/
structure State where
  /-- CR (R21). -/
  cr : Half
  /-- TXB (R24). -/
  txb : Byte
  /-- txb_full (R28). -/
  txbFull : Bool
  /-- RXB (R25). -/
  rxb : Byte
  /-- rxb_full (R28). -/
  rxbFull : Bool
  /-- SHR (R26). -/
  shr : Byte
  /-- phase (R27). -/
  phase : Phase
  /-- bitcnt (R27). -/
  bitcnt : BitVec 4
  /-- presc (R35): timing only, log entry 13. -/
  presc : Nat
  /-- sck (R34). -/
  sck : Bool
  /-- mosi (R34). -/
  mosi : Bool
  /-- clk_en (R29). -/
  clkEn : Bool
  /-- pins_routed (R29). -/
  pinsRouted : Bool
  /-- faults (R39; 60_exceptions.md R231). -/
  faults : FaultMarks
  /-- refused (R39; 60_exceptions.md R232). -/
  refused : Bool
  /-- The model's own: the parameters of 00_scope.md R10; no step writes it (log entry 1). -/
  cfg : Config
  /-- The model's own: the step records still to be taken, oldest first (log entry 3). -/
  inputs : List Record
  /-- The model's own: what the last step gave out (log entry 4). -/
  output : Output
  /-- The model's own: where the next free value is taken (log entry 7). -/
  draws : Nat
  deriving DecidableEq, Repr

/-- What a step answers. -/
abbrev Result := Host.Outcome State Fault Refusal

/-- No fault recorded. -/
def FaultMarks.none : FaultMarks where
  unclockedAccess := false
  txOverwrite := false
  configChangeWhileBusy := false
  modeChangeWhileEnabled := false
  modeFaultConfig := false

/-- The state a run starts in: 10_state.md R40 and 70_reset_and_hazards.md R260. TXB, RXB, SHR and
mosi are unspecified there; the zeros here are a DESIGN CHOICE (unsafe, log entry 5). -/
def State.reset : State where
  cr := 0x0000
  txb := 0x00
  txbFull := false
  rxb := 0x00
  rxbFull := false
  shr := 0x00
  phase := .idle
  bitcnt := 0
  presc := 0
  sck := false
  mosi := false
  clkEn := false
  pinsRouted := false
  faults := .none
  refused := false
  cfg := .default
  inputs := []
  output := .nothing
  draws := 0

end Sys2Proof.Machine
end

