-- ==== Sys2Proof/Machine/Operands.lean ====
section
/-! DEFINITION. Operand forms of the steps: truncation and extension of bus data
(spec/30_encoding.md rule R99, spec/20_memory.md rule R63), the fields of a control word
(spec/10_state.md rule R21), and the control words that initialize assembles
(spec/30_encoding.md rules R97, R98). -/

namespace Sys2Proof.Machine

/-- `trunc_N(v)` (00_scope.md R12). -/
def truncTo (n : Nat) (v : Word) : Word := BitVec.ofNat 32 (v.toNat % 2 ^ n)

/-- What the bus carries of a data word: its low `BUSW` bits. -/
def onBus (c : Config) (v : Word) : Word := truncTo c.busw v

/-- What of the data of a write reaches a register: its low `REGW` bits; the bits above are ignored
(20_memory.md R63). -/
def registerPart (c : Config) (wdata : Word) : Word := truncTo c.regw.val (onBus c wdata)

/-- The value n that `WR_CR` writes (41_register_ops.md R146). -/
def crOperand (c : Config) (wdata : Word) : Half := (registerPart c wdata).setWidth 16

/-- `b = wdata[7:0]` (41_register_ops.md R150); the bits above are ignored. -/
def drOperand (c : Config) (wdata : Word) : Byte := (registerPart c wdata).setWidth 8

/-- The bus data word of a register; the bits above it read 0 (20_memory.md R63). -/
def busOfHalf (c : Config) (v : Half) : Word := onBus c (v.setWidth 32)

/-- The bus data word of a byte read from DR (30_encoding.md R99). -/
def busOfByte (c : Config) (v : Byte) : Word := onBus c (v.setWidth 32)

/-- Field MSTR of a control word. -/
def mstr (c : Config) (n : Half) : Bool := n.getLsbD c.crMstr.val

/-- Field BR of a control word, the divisor code. -/
def br (c : Config) (n : Half) : Nat := (n >>> c.crBrLo.val).toNat % 2 ^ c.brw.val

/-- Field SPE of a control word. -/
def spe (c : Config) (n : Half) : Bool := n.getLsbD c.crSpe.val

/-- Field SSI of a control word. -/
def ssi (c : Config) (n : Half) : Bool := n.getLsbD c.crSsi.val

/-- Field SSM of a control word. -/
def ssm (c : Config) (n : Half) : Bool := n.getLsbD c.crSsm.val

/-- `n & ~CR_IMPL != 0` (30_encoding.md R103). -/
def hasReservedCrBit (c : Config) (n : Half) : Bool := n &&& ~~~c.crImpl != 0

/-- `(n & CR_MODE) != (CR & CR_MODE)` (41_register_ops.md R146). -/
def changesMode (c : Config) (old n : Half) : Bool := n &&& c.crMode != old &&& c.crMode

/-- `CW(d)` (30_encoding.md R97): all mode bits, SPE = 0. -/
def controlWord (c : Config) (d : Nat) : Half :=
  Config.bit c.crSsm ||| Config.bit c.crSsi ||| (BitVec.ofNat 16 d <<< c.crBrLo.val) |||
    Config.bit c.crMstr

/-- `EW(d)` (30_encoding.md R98): the same mode bits, SPE = 1. -/
def enableWord (c : Config) (d : Nat) : Half := controlWord c d ||| Config.bit c.crSpe

/-- One shift of the data path: `trunc_8((SHR << 1) | m)`, most significant bit first
(42_serializer.md R174, R178); least significant bit first it is the mirror of that (log entry
20). -/
def shiftIn (c : Config) (shr : Byte) (m : Bool) : Byte :=
  if c.msbFirst then (shr <<< 1) ||| (BitVec.ofBool m).setWidth 8
  else (shr >>> 1) ||| ((BitVec.ofBool m).setWidth 8 <<< 7)

/-- The bit of SHR that is sent next: `SHR[7]`, most significant bit first (42_serializer.md
R182). -/
def lineBit (c : Config) (v : Byte) : Bool := v.getLsbD (c.wireBit 0)

/-- The bit of a loaded byte that is sent last in its frame. -/
def lastBit (c : Config) (v : Byte) : Bool := v.getLsbD (c.wireBit 7)

/-- A mask of w ones at position p (40_clock_pin_gating.md R137). -/
def fieldMask (p w : Nat) : Word := ((1#32 <<< w) - 1#32) <<< p

/-- Clear then set of a field of a pin-controller register (40_clock_pin_gating.md R137). -/
def clearThenSet (g : Word) (p w : Nat) (n : Word) : Word := (g &&& ~~~fieldMask p w) ||| (n <<< p)

/-- The set alone, which leaves a stale pattern (40_clock_pin_gating.md R137). -/
def setOnly (g : Word) (p : Nat) (n : Word) : Word := g ||| (n <<< p)

end Sys2Proof.Machine
end

