-- ==== Sys2Proof/Machine/Flags.lean ====
section
/-! DEFINITION. The three status flags, the SR view, and the predicates and guards that are
functions of the state: spec/10_state.md rules R22, R30 to R33, R36, spec/42_serializer.md
rules R173 to R176, R183. -/

namespace Sys2Proof.Machine

/-- Transmit-empty (10_state.md R30, R31). -/
def txe (s : State) : Bool := !s.txbFull

/-- Receive-not-empty (10_state.md R30, R32). -/
def rxne (s : State) : Bool := s.rxbFull

/-- Busy (10_state.md R30, R33). -/
def bsy (s : State) : Bool := s.phase == .shift

/-- One flag at its bit of SR. -/
def flagAt (b : Bool) (p : Fin 16) : Half := (BitVec.ofBool b).setWidth 16 <<< p.val

/-- SR as read (10_state.md R22, 41_register_ops.md R148). -/
def srView (s : State) : Half :=
  flagAt (bsy s) s.cfg.srBsy ||| flagAt (txe s) s.cfg.srTxe ||| flagAt (rxne s) s.cfg.srRxne

/-- `ACTIVE` (10_state.md R36). -/
def active (s : State) : Bool :=
  s.clkEn && spe s.cfg s.cr && mstr s.cfg s.cr && ssm s.cfg s.cr && ssi s.cfg s.cr

/-- `QUIET` (10_state.md R36). -/
def quiet (s : State) : Bool := !s.txbFull && s.phase == .idle

/-- Guard of HW_LOAD (42_serializer.md R173). -/
def loadEnabled (s : State) : Bool := active s && s.phase == .idle && s.txbFull

/-- Guard of HW_SHIFT (42_serializer.md R174). -/
def shiftEnabled (s : State) : Bool := s.clkEn && s.phase == .shift && decide (s.bitcnt < 8#4)

/-- Guard of HW_COMPLETE (42_serializer.md R175). -/
def completeEnabled (s : State) : Bool := s.clkEn && s.phase == .shift && s.bitcnt == 8#4

/-- Guard of HW_FRAME (42_serializer.md R176). -/
def frameEnabled (s : State) : Bool := s.clkEn && s.phase == .shift && s.bitcnt == 0#4

/-- The SEQ step that is enabled, if any, with the data-in bit m for a shift: at most one of
HW_LOAD, HW_SHIFT, HW_COMPLETE is (42_serializer.md R183). -/
def seqChoice (s : State) (m : Bool) : Option Instr :=
  if loadEnabled s then some .hwLoad
  else if shiftEnabled s then some (.hwShift m)
  else if completeEnabled s then some .hwComplete
  else none

end Sys2Proof.Machine
end

