-- ==== Sys2Proof/Machine/Ops.lean ====
section
/-! DEFINITION. The named operations over the state that the meanings share. The hardware raises
no exception and returns from none (spec/60_exceptions.md rules R240, R241), so there is no
exception entry here: a model fault is the outcome `fault`, a refusal the outcome `refused`. -/

namespace Sys2Proof.Machine

/-! ## Updates -/

/-- The step gives out o. -/
def State.withOutput (s : State) (o : Output) : State := { s with output := o }

/-- The pending step records become l. -/
def State.withInputs (s : State) (l : List Record) : State := { s with inputs := l }

/-- The next k free values are used up (00_scope.md R13, `draw`). -/
def State.drawn (s : State) (k : Nat) : State := { s with draws := s.draws + k }

/-- `reg[CR] <- n` (41_register_ops.md R146). -/
def State.setCr (s : State) (n : Half) : State := { s with cr := n }

/-- `reg[TXB] <- b ; reg[txb_full] <- 1` (41_register_ops.md R150). -/
def State.stage (s : State) (b : Byte) : State := { s with txb := b, txbFull := true }

/-- `reg[rxb_full] <- 0` (41_register_ops.md R151). -/
def State.clearRxne (s : State) : State := { s with rxbFull := false }

/-- The staged byte moves into SHR and its first bit is on the line (42_serializer.md R173, and
the back-to-back branch of R175); where data changes on the first edge (CPHA = 1, log entry 20) the
line keeps its level until then. -/
def State.loadFrame (s : State) : State :=
  { s with
    shr := s.txb
    txbFull := false
    phase := .shift
    bitcnt := 0
    mosi := if s.cfg.cpha then s.mosi else lineBit s.cfg s.txb }

/-- One serial-clock period: m enters SHR, the next bit is on the line (with CPHA = 1 the bit just
sent is still, log entry 20), and sck ends at its resting level (42_serializer.md R172, R174). -/
def State.shiftBit (s : State) (m : Bool) : State :=
  { s with
    shr := shiftIn s.cfg s.shr m
    bitcnt := s.bitcnt + 1
    sck := s.cfg.cpol
    mosi := lineBit s.cfg (if s.cfg.cpha then s.shr else shiftIn s.cfg s.shr m) }

/-- Eight serial-clock periods at once: SHR holds the peer's byte (42_serializer.md R176, R172); with
CPHA = 1 the last bit sent is still on the line (log entry 20). -/
def State.fillFrame (s : State) (r : Byte) : State :=
  { s with
    shr := r
    bitcnt := 8
    sck := s.cfg.cpol
    mosi := if s.cfg.cpha then lastBit s.cfg s.shr else s.mosi }

/-- SHR is delivered to RXB, unless the overrun parameter keeps an unread byte (42_serializer.md
R175, R184). -/
def State.deliver (s : State) : State :=
  { s with
    rxb := if !s.rxbFull || s.cfg.rxOverrun == .overwrite then s.shr else s.rxb
    rxbFull := true }

/-- The sequencer goes idle (42_serializer.md R175); mosi is unspecified while idle (10_state.md
R34), so it takes a free value (safe, log entry 8). -/
def State.endFrame (s : State) : State :=
  { s with
    phase := .idle
    bitcnt := 0
    sck := s.cfg.cpol
    mosi := Config.freeBit s.draws
    draws := s.draws + 1 }

/-- `reg[clk_en] <- 1` (40_clock_pin_gating.md R131). -/
def State.clockOn (s : State) : State := { s with clkEn := true }

/-- `reg[pins_routed] <- 1` (40_clock_pin_gating.md R135). -/
def State.routePins (s : State) : State := { s with pinsRouted := true }

/-- Every element to its value of 10_state.md R40 (70_reset_and_hazards.md R260); the unspecified
ones take free values (safe, log entry 6), the marks are kept. -/
def State.resetRegisters (s : State) : State :=
  { s with
    cr := 0x0000
    txb := Config.freeByte s.draws
    txbFull := false
    rxb := Config.freeByte (s.draws + 1)
    rxbFull := false
    shr := Config.freeByte (s.draws + 2)
    phase := .idle
    bitcnt := 0
    presc := 0
    sck := s.cfg.cpol
    mosi := Config.freeBit (s.draws + 3)
    clkEn := false
    pinsRouted := false
    draws := s.draws + 4 }

/-! ## Outcomes -/

/-- The step is taken, ends in s and gives out nothing. -/
def done (s : State) : Result := .next (s.withOutput .nothing)

/-- The step is taken, ends in s and returns the bus data word v. -/
def returning (v : Word) (s : State) : Result := .next (s.withOutput (.readValue v))

/-- The checks common to every HOST step, in their order (41_register_ops.md R145, 60_exceptions.md
R237): the clock, then the size; then the step's own rule k. The third check, the offset, is the
decoder's choice of the step. -/
def hostStep (record : Record) (size : AccessSize) (s : State) (k : State → Result) : Result :=
  if !s.clkEn then .fault (.unclockedAccess record)
  else if !size.admitted then .refused .badAccessSize
  else k s

/-- What the peer samples reaches it only through routed pins (40_clock_pin_gating.md R134). -/
def toPeer (s : State) (o : Output) : Output := if s.pinsRouted then o else .nothing

/-- The end of a frame: delivery, then back to back or idle (42_serializer.md R175). -/
def finishFrame (s : State) : State :=
  if s.txbFull then s.deliver.loadFrame else s.deliver.endFrame

end Sys2Proof.Machine
end

