-- ==== Sys2Proof/Machine/Environment.lean ====
section
/-! DEFINITION. The ENV steps: spec/40_clock_pin_gating.md rules R131, R135 and
spec/70_reset_and_hazards.md rule R260. All are enabled in every state. -/

namespace Sys2Proof.Machine

/-- `ENV_RESET` (70_reset_and_hazards.md R260). -/
def execEnvReset (s : State) : Result := done s.resetRegisters

/-- `ENV_CLK_ON` (40_clock_pin_gating.md R131). -/
def execEnvClkOn (s : State) : Result := done s.clockOn

/-- `ENV_PINS` (40_clock_pin_gating.md R135). -/
def execEnvPins (s : State) : Result := done s.routePins

end Sys2Proof.Machine
end

