-- ==== Sys2Proof/Machine/RegisterOps.lean ====
section
/-! DEFINITION. The HOST steps on the register window: spec/41_register_ops.md. -/

namespace Sys2Proof.Machine

/-- `RD_CR` (41_register_ops.md R147). -/
def execRdCr (size : AccessSize) (s : State) : Result :=
  hostStep (encode s.cfg (.rdCr size)) size s fun s => returning (busOfHalf s.cfg s.cr) s

/-- The step's own rule of `WR_CR` for the value n (41_register_ops.md R146), its checks in the
order of 60_exceptions.md R237. -/
def writeCr (n : Half) (s : State) : Result :=
  if hasReservedCrBit s.cfg n then .refused .reservedCrBits
  else if s.phase == .shift then .fault (.configChangeWhileBusy s.cr n)
  else if spe s.cfg n && changesMode s.cfg s.cr n then .fault (.modeChangeWhileEnabled s.cr n)
  else if spe s.cfg n && !mstr s.cfg n then .refused .slaveRole
  else if spe s.cfg n && !ssm s.cfg n then .refused .hardwareNss
  else if spe s.cfg n && !ssi s.cfg n then .fault (.modeFaultConfig n)
  else done (s.setCr n)

/-- `WR_CR` (41_register_ops.md R146). -/
def execWrCr (size : AccessSize) (wdata : Word) (s : State) : Result :=
  hostStep (encode s.cfg (.wrCr size wdata)) size s (writeCr (crOperand s.cfg wdata))

/-- `RD_SR` (41_register_ops.md R148). -/
def execRdSr (size : AccessSize) (s : State) : Result :=
  hostStep (encode s.cfg (.rdSr size)) size s fun s => returning (busOfHalf s.cfg (srView s)) s

/-- `WR_SR` (41_register_ops.md R149): accepted, no effect. -/
def execWrSr (size : AccessSize) (wdata : Word) (s : State) : Result :=
  hostStep (encode s.cfg (.wrSr size wdata)) size s done

/-- The step's own rule of `RD_DR` (41_register_ops.md R151); a read with RXNE = 0 returns a free
value (60_exceptions.md R233, DR2; log entry 7). -/
def readDr (s : State) : Result :=
  if s.rxbFull then returning (busOfByte s.cfg s.rxb) s.clearRxne
  else returning (busOfByte s.cfg (Config.freeByte s.draws)) (s.clearRxne.drawn 1)

/-- `RD_DR` (41_register_ops.md R151). -/
def execRdDr (size : AccessSize) (s : State) : Result :=
  hostStep (encode s.cfg (.rdDr size)) size s readDr

/-- The step's own rule of `WR_DR` for the byte b (41_register_ops.md R150). -/
def writeDr (b : Byte) (s : State) : Result :=
  if s.txbFull then .fault (.txOverwrite b s.txb) else done (s.stage b)

/-- `WR_DR` (41_register_ops.md R150). -/
def execWrDr (size : AccessSize) (wdata : Word) (s : State) : Result :=
  hostStep (encode s.cfg (.wrDr size wdata)) size s (writeDr (drOperand s.cfg wdata))

/-- An access at an offset of the window that holds no register (41_register_ops.md R152). -/
def execNoRegister (a : Access) (s : State) : Result :=
  hostStep (encodeAccess a) a.size s fun _ => .refused .reservedOffset

end Sys2Proof.Machine
end

