-- ==== Sys2Proof/Machine/Serializer.lean ====
section
/-! DEFINITION. The SEQ steps and the clock divisor: spec/42_serializer.md. A SEQ step whose guard
fails cannot be taken (rule R183); its record is refused under a name of its own (safe, log
entry 11). -/

namespace Sys2Proof.Machine

/-- `HW_LOAD` (42_serializer.md R173). -/
def execHwLoad (s : State) : Result :=
  if loadEnabled s then done s.loadFrame else .refused .loadNotEnabled

/-- `HW_SHIFT` (42_serializer.md R174): the peer samples the bit of SHR as it was. -/
def execHwShift (m : Bool) (s : State) : Result :=
  if shiftEnabled s then .next ((s.shiftBit m).withOutput (toPeer s (.peerBit (lineBit s.cfg s.shr))))
  else .refused .shiftNotEnabled

/-- `HW_COMPLETE` (42_serializer.md R175). -/
def execHwComplete (s : State) : Result :=
  if completeEnabled s then done (finishFrame s) else .refused .completeNotEnabled

/-- `HW_FRAME` (42_serializer.md R176): the peer receives SHR as it was. -/
def execHwFrame (r : Byte) (s : State) : Result :=
  if frameEnabled s then
    .next ((finishFrame (s.fillFrame r)).withOutput (toPeer s (.peerByte s.shr)))
  else .refused .frameNotEnabled

/-! ## Timing, which no step reads -/

/-- One serial-clock period, in periods of the block clock (42_serializer.md R170, R172). -/
def serialPeriod (s : State) : Option Nat := s.cfg.divOf (br s.cfg s.cr)

/-- One frame, in periods of the block clock (70_reset_and_hazards.md R280). -/
def framePeriod (s : State) : Option Nat := (serialPeriod s).map (8 * ·)

end Sys2Proof.Machine
end

