-- ==== Sys2Proof/Machine/Dispatch.lean ====
section
/-! DEFINITION. One arm per step of spec/opcode_table.json, each one call of its meaning. -/

namespace Sys2Proof.Machine

def exec (i : Instr) (s : State) : Host.Outcome State Fault Refusal :=
  match i with
  | .rdCr size => Sys2Proof.Machine.execRdCr size s
  | .wrCr size wdata => Sys2Proof.Machine.execWrCr size wdata s
  | .rdSr size => Sys2Proof.Machine.execRdSr size s
  | .wrSr size wdata => Sys2Proof.Machine.execWrSr size wdata s
  | .rdDr size => Sys2Proof.Machine.execRdDr size s
  | .wrDr size wdata => Sys2Proof.Machine.execWrDr size wdata s
  | .hwLoad => Sys2Proof.Machine.execHwLoad s
  | .hwShift m => Sys2Proof.Machine.execHwShift m s
  | .hwComplete => Sys2Proof.Machine.execHwComplete s
  | .hwFrame r => Sys2Proof.Machine.execHwFrame r s
  | .envReset => Sys2Proof.Machine.execEnvReset s
  | .envClkOn => Sys2Proof.Machine.execEnvClkOn s
  | .envPins => Sys2Proof.Machine.execEnvPins s

end Sys2Proof.Machine
end

