-- ==== Sys2Proof/Machine/Fetch.lean ====
section
/-! DEFINITION. Taking the next step record, and what the machine does by itself when no record is
pending: spec/00_scope.md rules R9, R14, spec/42_serializer.md rule R180. -/

namespace Sys2Proof.Machine

/-- Take the step a record asks for: decode it, then the step, the access that hits no register
(41_register_ops.md R152), or "invalid record" (30_encoding.md R105). -/
def takeRecord (r : Record) (s : State) : Result :=
  match decode s.cfg r with
  | .instr i => exec i s
  | .noRegister a => execNoRegister a s
  | .invalid why => .refused (.invalidRecord why)

/-- No record is pending: HOST and ENV do nothing, and SEQ takes its enabled step or waits, by a
free choice, with a free data-in bit (00_scope.md R9, 42_serializer.md R180, R181; safe, log
entry 3). -/
def stepAlone (s : State) : Result :=
  if Config.freeBit s.draws then
    match seqChoice s (Config.freeBit (s.draws + 1)) with
    | some i => exec i (s.drawn 2)
    | none => done (s.drawn 2)
  else done (s.drawn 2)

/-- One step: the oldest pending record, or the machine alone. -/
def nextStep (s : State) : Result :=
  match s.inputs with
  | r :: rest => takeRecord r (s.withInputs rest)
  | [] => stepAlone s

/-- Put the record of a table word before the pending ones; bits from nbits up are 0. -/
def placeWord (s : State) (nbits w : Nat) : State :=
  s.withInputs (BitVec.ofNat 48 (w % 2 ^ nbits) :: s.inputs)

end Sys2Proof.Machine
end

