-- ==== Sys2Proof/Machine/Step.lean ====
section
/-! DEFINITION. The step function of the machine and where its next record is placed. -/

namespace Sys2Proof.Machine

/-- One step (00_scope.md R14). -/
def step (s : State) : Host.Outcome State Fault Refusal := nextStep s

/-- The state with a table word as its next step record. -/
def State.withFetchWord (s : State) (nbits w : Nat) : State := placeWord s nbits w

end Sys2Proof.Machine
end

