-- ==== Sys2Proof/Machine/Driver.lean ====
section
/-! DEFINITION. The driver sequences, which are pseudo-operations of the spec: named sequences of
HOST steps (spec/30_encoding.md rule R107, spec/43_driver_sequences.md), and HOST programs, which
perform them one after another (spec/00_scope.md rule R14). The position in a sequence is the
HOST's, not hardware state (rule R203). -/

namespace Sys2Proof.Machine

/-- `ConfigurationError` (60_exceptions.md R238). -/
inductive DriverError
  | configurationError
  deriving DecidableEq, Repr

/-- `initialize(d)` (43_driver_sequences.md R201): rejected before any access where d is no code of
the divisor field, 0 to 7 in a field of 3 bits (30_encoding.md R104); else two writes. -/
def initializeCall (c : Config) (d : Int) : Except DriverError (List Instr) :=
  if d < 0 ∨ 2 ^ c.brw.val ≤ d then .error .configurationError
  else .ok
    [.wrCr .word (busOfHalf c (controlWord c d.toNat)),
     .wrCr .word (busOfHalf c (enableWord c d.toNat))]

/-- `enable_domains()`, as the block sees it (40_clock_pin_gating.md R132). -/
def enableDomains : List Instr := [.envClkOn]

/-- `route_pins_to_bus()`, as the block sees it (40_clock_pin_gating.md R136). Its precondition is
that the pin controller is clocked; the spec does not say what it does otherwise. DESIGN CHOICE (log
entry 23), unsafe: it then performs ENV_PINS all the same and raises pins_routed, whose guard R135
calls always enabled. -/
def routePinsToBus : List Instr := [.envPins]

/-- The three transfer sequences (43_driver_sequences.md R202, R204, R205). -/
inductive Call
  | transferByte (v : Byte)
  | send (v : Byte)
  | receive (dummy : Byte)
  deriving DecidableEq, Repr

/-- Where a transfer sequence stands, by the steps of 43_driver_sequences.md R202; `returned`
holds the result, none for `send`. -/
inductive Position
  | pollTxe        -- step 1
  | writeDr        -- step 2
  | pollLoaded     -- step 3
  | pollBsy        -- step 4
  | pollRxne       -- step 5, the wait
  | readDr         -- step 5, the read
  | returned (r : Option Byte)
  deriving DecidableEq, Repr

/-- DOC's per-transfer states (43_driver_sequences.md R203). -/
inductive DriverState
  | idle
  | loading
  | transmitting
  | draining
  deriving DecidableEq, Repr

/-- The driver state of a position (43_driver_sequences.md R203). -/
def Position.driverState : Position → DriverState
  | .pollTxe => .idle
  | .writeDr => .loading
  | .pollLoaded => .loading
  | .pollBsy => .transmitting
  | .pollRxne => .draining
  | .readDr => .draining
  | .returned _ => .idle

/-- `receive()` with the dummy byte of the platform (43_driver_sequences.md R205). -/
def receiveCall (c : Config) : Call := .receive c.dummy

/-- The byte a call puts on the data-out line. -/
def Call.byte : Call → Byte
  | .transferByte v => v
  | .send v => v
  | .receive d => d

/-- Whether a call performs step 5 (43_driver_sequences.md R204: `send` does not). -/
def Call.reads : Call → Bool
  | .transferByte _ => true
  | .send _ => false
  | .receive _ => true

/-- The HOST step at a position, none once the call has returned (43_driver_sequences.md R202). -/
def hostInstr (c : Call) : Position → Option Instr
  | .pollTxe => some (.rdSr .word)
  | .writeDr => some (.wrDr .word (c.byte.setWidth 32))
  | .pollLoaded => some (.rdSr .word)
  | .pollBsy => some (.rdSr .word)
  | .pollRxne => some (.rdSr .word)
  | .readDr => some (.rdDr .word)
  | .returned _ => none

/-- The value a read gave out, 0 for a step that returns none. -/
def Output.value : Output → Word
  | .nothing => 0
  | .readValue v => v
  | .peerBit _ => 0
  | .peerByte _ => 0

/-- A flag test on a value read from SR (30_encoding.md R99). -/
def srTest (v : Word) (p : Fin 16) : Bool := v.getLsbD p.val

/-- The three flags that a poll can wait for (43_driver_sequences.md R200). -/
inductive StatusFlag
  | txe
  | rxne
  | bsy
  deriving DecidableEq, Repr

/-- The bit of SR that holds a flag (00_scope.md R10). -/
def StatusFlag.position (c : Config) : StatusFlag → Fin 16
  | .txe => c.srTxe
  | .rxne => c.srRxne
  | .bsy => c.srBsy

/-- `FLAG(S)` (00_scope.md R13, 10_state.md R30). -/
def StatusFlag.holds (s : State) : StatusFlag → Bool
  | .txe => Machine.txe s
  | .rxne => Machine.rxne s
  | .bsy => Machine.bsy s

/-- Whether `POLL f = b` leaves its loop at a read of SR that returned v (43_driver_sequences.md
R200); each read is one RD_SR, and nothing bounds their number. -/
def pollEnds (cfg : Config) (f : StatusFlag) (b : Bool) (v : Word) : Bool :=
  srTest v (f.position cfg) == b

/-- The position after the HOST step at a position gave out a value (43_driver_sequences.md R200,
R202, R204): a poll repeats until its flag test holds. -/
def positionAfter (cfg : Config) (c : Call) (v : Word) : Position → Position
  | .pollTxe => if pollEnds cfg .txe true v then .writeDr else .pollTxe
  | .writeDr => .pollLoaded
  | .pollLoaded => if pollEnds cfg .txe true v then .pollBsy else .pollLoaded
  | .pollBsy =>
    if pollEnds cfg .bsy false v then (if c.reads then .pollRxne else .returned none)
    else .pollBsy
  | .pollRxne => if pollEnds cfg .rxne true v then .readDr else .pollRxne
  | .readDr => .returned (some (v.setWidth 8))
  | .returned r => .returned r

/-- A HOST that stands at p takes its own next step, if it has one, and moves by what the step gave
out; it stops where the block's step does. -/
def hostStepFrom {α : Type} (p : α) (own : Option Instr) (after : Config → Word → α) (s : State) :
    Host.Outcome (α × State) Fault Refusal :=
  match own with
  | none => .next (p, s)
  | some i =>
    match exec i s with
    | .next t => .next (after t.cfg t.output.value, t)
    | .fault f => .fault f
    | .refused r => .refused r

/-- One move of the HOST in a call, beside the block. -/
def hostMove (c : Call) (p : Position) (s : State) :
    Host.Outcome (Position × State) Fault Refusal :=
  hostStepFrom p (hostInstr c p) (fun cfg v => positionAfter cfg c v p) s

/-! ## Operations of a HOST program -/

/-- An operation of a HOST program: a pseudo-operation (30_encoding.md R107), or a bare step such as
the `WR_DR` of 00_scope.md R14. -/
inductive Operation
  | poll (f : StatusFlag) (b : Bool)
  | enableDomains
  | routePinsToBus
  | initializeWith (d : Int)
  | call (c : Call)
  | bare (i : Instr)
  deriving DecidableEq, Repr

/-- Where an operation stands: steps still to be taken, in the loop of a poll, in a call, or turned
away. -/
inductive Stage
  | steps (l : List Instr)
  | polling (f : StatusFlag) (b : Bool)
  | inCall (c : Call) (p : Position)
  | rejected (e : DriverError)
  deriving DecidableEq, Repr

/-- Where an operation begins. -/
def Operation.start (cfg : Config) : Operation → Stage
  | .poll f b => .polling f b
  | .enableDomains => .steps Machine.enableDomains
  | .routePinsToBus => .steps Machine.routePinsToBus
  | .initializeWith d =>
    match initializeCall cfg d with
    | .ok l => .steps l
    | .error e => .rejected e
  | .call c => .inCall c .pollTxe
  | .bare i => .steps [i]

/-- The HOST's own next step in an operation, none once it has returned; a poll reads SR with 4 bytes
(43_driver_sequences.md R200). -/
def Stage.nextInstr : Stage → Option Instr
  | .steps l => l.head?
  | .polling _ _ => some (.rdSr .word)
  | .inCall c p => hostInstr c p
  | .rejected _ => none

/-- Where an operation stands after its next step gave out v: a poll repeats until its flag test holds
(43_driver_sequences.md R200). -/
def Stage.after (cfg : Config) (v : Word) : Stage → Stage
  | .steps l => .steps l.tail
  | .polling f b => if pollEnds cfg f b v then .steps [] else .polling f b
  | .inCall c p => .inCall c (positionAfter cfg c v p)
  | .rejected e => .rejected e

/-- Whether an operation has returned: it has no step of its own left. -/
def Stage.hasReturned (g : Stage) : Bool := g.nextInstr.isNone

/-- A HOST program: the operation it is in and those it has still to begin. -/
structure HostProgram where
  stage : Stage
  rest : List Operation
  deriving DecidableEq, Repr

/-- A program that begins with the first of its operations. -/
def HostProgram.ofOperations (l : List Operation) : HostProgram := { stage := .steps [], rest := l }

/-- The program's last operation has returned (00_scope.md R14). -/
def HostProgram.hasReturned (h : HostProgram) : Bool := h.stage.hasReturned && h.rest.isEmpty

/-- One move of the HOST in a program: a step of its operation, or, where that has returned, the
beginning of the next one, which is no step of the block. -/
def HostProgram.move (h : HostProgram) (s : State) :
    Host.Outcome (HostProgram × State) Fault Refusal :=
  if h.stage.hasReturned then
    match h.rest with
    | [] => .next (h, s)
    | o :: os => .next ({ stage := o.start s.cfg, rest := os }, s)
  else
    hostStepFrom h h.stage.nextInstr
      (fun cfg v => { stage := h.stage.after cfg v, rest := h.rest }) s

end Sys2Proof.Machine
end

