-- ==== Sys2Proof/Machine/Run.lean ====
section
/-! DEFINITION. Runs with their bookkeeping: what `faults` and `refused` hold after a step that
faults or is refused (spec/10_state.md rule R39, spec/60_exceptions.md rules R231, R232). The step
function itself stops there, since the spec defines no next state; a run goes on in the recorded
state, whose marks no later step clears. -/

namespace Sys2Proof.Machine

/-- The kind of a fault (60_exceptions.md R231). -/
def Fault.kind : Fault → FaultKind
  | .unclockedAccess _ => .unclockedAccess
  | .txOverwrite _ _ => .txOverwrite
  | .configChangeWhileBusy _ _ => .configChangeWhileBusy
  | .modeChangeWhileEnabled _ _ => .modeChangeWhileEnabled
  | .modeFaultConfig _ => .modeFaultConfig

/-- Whether a kind is in the set. -/
def FaultMarks.has (m : FaultMarks) : FaultKind → Bool
  | .unclockedAccess => m.unclockedAccess
  | .txOverwrite => m.txOverwrite
  | .configChangeWhileBusy => m.configChangeWhileBusy
  | .modeChangeWhileEnabled => m.modeChangeWhileEnabled
  | .modeFaultConfig => m.modeFaultConfig

/-- The set with a kind added. -/
def FaultMarks.add (m : FaultMarks) : FaultKind → FaultMarks
  | .unclockedAccess => { m with unclockedAccess := true }
  | .txOverwrite => { m with txOverwrite := true }
  | .configChangeWhileBusy => { m with configChangeWhileBusy := true }
  | .modeChangeWhileEnabled => { m with modeChangeWhileEnabled := true }
  | .modeFaultConfig => { m with modeFaultConfig := true }

/-- Whether a refusal is one of the closed list RF1 to RF5 (60_exceptions.md R232); a record that
is no step of any run is not. -/
def Refusal.isListed : Refusal → Bool
  | .badAccessSize => true
  | .reservedOffset => true
  | .reservedCrBits => true
  | .slaveRole => true
  | .hardwareNss => true
  | _ => false

/-- No defined next state (60_exceptions.md R231): every register takes a free value; the latched
inputs of ENV, which only ENV steps write (10_state.md R29), and the marks stay. Safe; log
entry 10. -/
def State.undefined (s : State) : State :=
  { s with
    cr := Config.freeHalf s.draws
    txb := Config.freeByte (s.draws + 1)
    txbFull := Config.freeBit (s.draws + 2)
    rxb := Config.freeByte (s.draws + 3)
    rxbFull := Config.freeBit (s.draws + 4)
    shr := Config.freeByte (s.draws + 5)
    phase := if Config.freeBit (s.draws + 6) then .shift else .idle
    bitcnt := Config.freeNibble (s.draws + 7)
    presc := Config.freeNat (s.draws + 8)
    sck := Config.freeBit (s.draws + 9)
    mosi := Config.freeBit (s.draws + 10)
    output := .nothing
    draws := s.draws + 11 }

/-- The state recorded after a fault: the mark is added (60_exceptions.md R231). -/
def State.recordFault (s : State) (k : FaultKind) : State :=
  { s.undefined with faults := s.faults.add k }

/-- The state recorded after a refusal: nothing changes but the mark (41_register_ops.md R145,
60_exceptions.md R232). -/
def State.recordRefusal (s : State) (r : Refusal) : State :=
  { s with output := .nothing, refused := s.refused || r.isListed }

/-- The state recorded after one step of a run; the pending record is used up. -/
def advance (s : State) : State :=
  match step s with
  | .next t => t
  | .fault f => (s.withInputs s.inputs.tail).recordFault f.kind
  | .refused r => (s.withInputs s.inputs.tail).recordRefusal r

/-- The state recorded after n steps of a run (00_scope.md R14). -/
def advanceBy : Nat → State → State
  | 0, s => s
  | n + 1, s => advanceBy n (advance s)

/-- The steps of a list taken in order, with what each gives out (00_scope.md R14): it stops where
one of them stops. -/
def execTrace : List Instr → State → Host.Outcome (List Output × State) Fault Refusal
  | [], s => .next ([], s)
  | i :: rest, s =>
    match exec i s with
    | .next t =>
      match execTrace rest t with
      | .next (os, u) => .next (t.output :: os, u)
      | .fault f => .fault f
      | .refused r => .refused r
    | .fault f => .fault f
    | .refused r => .refused r

end Sys2Proof.Machine
end

