-- ==== Sys2Proof/Safety.lean ====
section
/-! DEFINITION. What counts as a good state and a good run, in the terms claims use:
spec/00_scope.md rule R14, spec/10_state.md rule R37, spec/42_serializer.md rule R180,
spec/43_driver_sequences.md rules R203, R206. -/

namespace Sys2Proof.Safety

open Sys2Proof.Machine

/-- The invariants (a) to (f) of 10_state.md R37. -/
structure Inv (s : State) : Prop where
  /-- (a) -/
  idle_bitcnt : s.phase = .idle → s.bitcnt = 0
  /-- (b) -/
  bitcnt_le : s.bitcnt.toNat ≤ 8
  /-- (c) -/
  cr_impl : s.cr &&& ~~~s.cfg.crImpl = 0
  /-- (d) -/
  spe_config : spe s.cfg s.cr = true →
    mstr s.cfg s.cr = true ∧ ssm s.cfg s.cr = true ∧ ssi s.cfg s.cr = true
  /-- (e) -/
  shift_enabled : s.phase = .shift → spe s.cfg s.cr = true ∧ s.clkEn = true
  /-- (f): sck rests at CPOL, 0 by default (R34). -/
  idle_sck : s.phase = .idle → s.sck = s.cfg.cpol

/-- 10_state.md R34: mosi carries SHR[7] while a frame is in the shift register; so it is where the
first edge of a clock period samples (CPHA = 0). -/
def LineCarriesShr (s : State) : Prop :=
  s.cfg.cpha = false → s.phase = .shift → s.mosi = lineBit s.cfg s.shr

/-- A final state for a HOST program (00_scope.md R14): its last operation has returned, no record is
still to be taken, no fault is recorded, nothing was refused, and `QUIET` holds. -/
def Final (h : HostProgram) (s : State) : Prop :=
  h.hasReturned = true ∧ s.inputs = [] ∧ s.faults = .none ∧ s.refused = false ∧ quiet s = true

/-- A run of steps that all answer a next state. -/
def IsRun (a : Nat → Instr) (r : Nat → State) : Prop := ∀ n, exec (a n) (r n) = .next (r (n + 1))

/-- Some SEQ step is enabled (42_serializer.md R183). -/
def SeqEnabled (s : State) : Prop :=
  loadEnabled s = true ∨ shiftEnabled s = true ∨ completeEnabled s = true

/-- `P_PROGRESS` (42_serializer.md R180): a SEQ step that stays enabled does not stay untaken for
ever. A premise of termination claims, never a fact of the machine. -/
def Progress (a : Nat → Instr) (r : Nat → State) : Prop :=
  ∀ n, ∃ m, n ≤ m ∧ ((a m).agent = .seq ∨ ¬ SeqEnabled (r m))

/-- Every ENV step may come: ENV_RESET too, which ENV may take in any state
(70_reset_and_hazards.md R260). -/
def AnyEnv (_ : Instr) : Prop := True

/-- No reset comes: a premise of the claims about a whole transfer (log entry 18). -/
def NoReset (i : Instr) : Prop := i ≠ .envReset

/-- One move of the three agents while a HOST that moves by `host` stands at a place of its program:
the HOST's own next step, any SEQ step, or any of the ENV steps that may come (20_memory.md R67 (d),
43_driver_sequences.md R200). -/
inductive Interleaved {α : Type} (mayCome : Instr → Prop)
    (host : α → State → Host.Outcome (α × State) Fault Refusal) : α × State → α × State → Prop
  | host {p s q} : host p s = .next q → Interleaved mayCome host (p, s) q
  | seq {p s i t} : i.agent = .seq → exec i s = .next t → Interleaved mayCome host (p, s) (p, t)
  | env {p s i t} : i.agent = .env → mayCome i → exec i s = .next t →
      Interleaved mayCome host (p, s) (p, t)

/-- One move while a call runs, whatever ENV does. -/
abbrev Move (c : Call) : Position × State → Position × State → Prop :=
  Interleaved AnyEnv (hostMove c)

/-- One move while a call runs and no reset comes. -/
abbrev MoveWithoutReset (c : Call) : Position × State → Position × State → Prop :=
  Interleaved NoReset (hostMove c)

/-- One move while a HOST program runs, whatever ENV does. -/
abbrev ProgramMove : HostProgram × State → HostProgram × State → Prop :=
  Interleaved AnyEnv HostProgram.move

/-- A run of moves while a call runs, with every SEQ step taken in it, in order, and what that gave
out, for the ENV steps that may come. -/
inductive CallRun (mayCome : Instr → Prop) (c : Call) :
    List (Instr × Output) → Position × State → Position × State → Prop
  | here {q} : CallRun mayCome c [] q q
  | host {p s q l r} : hostMove c p s = .next q → CallRun mayCome c l q r →
      CallRun mayCome c l (p, s) r
  | seq {p s i t l r} : i.agent = .seq → exec i s = .next t → CallRun mayCome c l (p, t) r →
      CallRun mayCome c ((i, t.output) :: l) (p, s) r
  | env {p s i t l r} : i.agent = .env → mayCome i → exec i s = .next t →
      CallRun mayCome c l (p, t) r → CallRun mayCome c l (p, s) r

/-- The SEQ steps of one frame in which the peer returns the byte r, from its HW_LOAD on, at byte
level or bit by bit (42_serializer.md R177). -/
def IsFrameOf (c : Config) (r : Byte) (l : List Instr) : Prop :=
  l = [.hwLoad, .hwFrame r] ∨
  l = .hwLoad :: ((List.range 8).map fun k => .hwShift (r.getLsbD (c.wireBit k))) ++ [.hwComplete]

/-- The peer received the byte v in what SEQ gave out: the byte, or its bits in the order of the
wire. -/
def PeerReceived (c : Config) (v : Byte) (l : List Output) : Prop :=
  l.filter (· != .nothing) = [.peerByte v] ∨
  l.filter (· != .nothing) = (List.range 8).map fun k => .peerBit (v.getLsbD (c.wireBit k))

/-- The hardware states that can stand beside each position of a call that entered in `QUIET`
(43_driver_sequences.md R203), with RXNE once the frame is over. -/
def Beside (c : Call) (p : Position) (s : State) : Prop :=
  match p with
  | .pollTxe => quiet s = true
  | .writeDr => quiet s = true
  | .pollLoaded =>
    (s.txbFull = true ∧ s.phase = .idle ∧ s.txb = c.byte) ∨
    (s.txbFull = false ∧ s.phase = .shift) ∨ (quiet s = true ∧ s.rxbFull = true)
  | .pollBsy =>
    (s.txbFull = false ∧ s.phase = .shift) ∨ (quiet s = true ∧ s.rxbFull = true)
  | .pollRxne => c.reads = true ∧ quiet s = true ∧ s.rxbFull = true
  | .readDr => c.reads = true ∧ quiet s = true ∧ s.rxbFull = true
  | .returned none => c.reads = false ∧ quiet s = true ∧ s.rxbFull = true
  | .returned (some b) =>
    c.reads = true ∧ quiet s = true ∧ s.rxbFull = false ∧ b = s.rxb

/-- The invariant of a call: the block is `ACTIVE` and stands beside the position. -/
def InCall (c : Call) (p : Position) (s : State) : Prop := active s = true ∧ Beside c p s

end Sys2Proof.Safety
end

