-- ==== Sys2Proof/Certificates/Slice0/Obligations.lean ====
section
/-! DEFINITION. What is claimed of the machine: spec/'s numbered rules, file by file. A free value
or a model's own field is named where a clause rests on it. -/

open Sys2Proof Sys2Proof.Machine Sys2Proof.Safety

/-! ## 30_encoding.md and 20_memory.md: records and addresses -/

/-- One record of each row of the opcode table, written out from R91 to R93 (the words of
95_test_vectors.md V-ENC and of R100's examples), decodes to its step; and the records V-ENC lists
as hitting no register or as invalid do not. -/
def Obligations.WrittenRecordsDecodeToTheirSteps : Prop :=
  decode .default 0x1000_0000_0000 = .instr (.rdCr .word) ∧
  decode .default 0x3000_0000_030C = .instr (.wrCr .word 0x030C) ∧
  decode .default 0x2800_0000_030C = .instr (.wrCr .half 0x030C) ∧
  decode .default 0x1008_0000_0000 = .instr (.rdSr .word) ∧
  decode .default 0x3008_0000_0000 = .instr (.wrSr .word 0) ∧
  decode .default 0x080C_0000_0000 = .instr (.rdDr .half) ∧
  decode .default 0x300C_0000_00A5 = .instr (.wrDr .word 0xA5) ∧
  decode .default 0x200C_0000_00A5 = .instr (.wrDr .byte 0xA5) ∧
  decode .default 0x4000_0000_0000 = .instr .hwLoad ∧
  decode .default 0x5000_0000_0001 = .instr (.hwShift true) ∧
  decode .default 0x6000_0000_0000 = .instr .hwComplete ∧
  decode .default 0x7000_0000_00A5 = .instr (.hwFrame 0xA5) ∧
  decode .default 0x8000_0000_0000 = .instr .envReset ∧
  decode .default 0x9000_0000_0000 = .instr .envClkOn ∧
  decode .default 0xA000_0000_0000 = .instr .envPins ∧
  decode .default 0x280E_0000_00A5 =
    .noRegister { we := true, size := .half, offset := 0x0E, wdata := 0xA5 } ∧
  decode .default 0x1008_0000_0001 = .invalid .readWithData ∧
  decode .default 0xC000_0000_0000 = .invalid .reservedAgent

/-- Headline (decode and encode agree): under any distinct offsets, the record of every step
decodes to that step, with every operand at every value (R91 to R93). -/
def Obligations.DecodeOfEncodeIsTheStep : Prop :=
  ∀ (c : Config) (i : Instr), c.OffsetsWF → decode c (encode c i) = .instr i

/-- A record that decodes to a step is that step's record: the decoder drops no bit (R91 to R93). -/
def Obligations.EncodeOfDecodeIsTheRecord : Prop :=
  ∀ (c : Config) (r : Record) (i : Instr), decode c r = .instr i → encode c i = r

/-- R100: a record decodes to a step exactly where it selects the step's row by match and mask, a
selected HOST row is then admitted only with a size of 2 or 4 bytes, and the rule's examples. -/
def Obligations.RecordDecodesWhereItSelectsARow : Prop :=
  (∀ (r : Record) (i : Instr), decode .default r = .instr i → SelectsRowOf r i) ∧
  (∀ (r : Record) (i : Instr), SelectsRowOf r i →
    ∃ j, decode .default r = .instr j ∧ tableRow j = tableRow i) ∧
  (∀ (i : Instr) (z : AccessSize) (s : State), i.size? = some z → z ≠ .half → z ≠ .word →
    s.clkEn = true → exec i s = .refused .badAccessSize) ∧
  decode .default 0x3000_0000_030C = .instr (.wrCr .word 0x030C) ∧
  decode .default 0x2800_0000_030C = .instr (.wrCr .half 0x030C) ∧
  decode .default 0x1008_0000_0000 = .instr (.rdSr .word) ∧
  decode .default 0x300C_0000_00A5 = .instr (.wrDr .word 0xA5) ∧
  decode .default 0x100C_0000_0000 = .instr (.rdDr .word) ∧
  decode .default 0x5000_0000_0001 = .instr (.hwShift true) ∧
  decode .default 0x7000_0000_00A5 = .instr (.hwFrame 0xA5)

/-- R105: the invalid records are exactly those the rule lists. -/
def Obligations.ReservedRecordsAreTheInvalidOnes : Prop :=
  ∀ (c : Config) (r : Record),
    (∃ why, decode c r = .invalid why) ↔
      (r.extractLsb' 46 2 = 0b11#2 ∨
       (r.extractLsb' 46 2 = 0b00#2 ∧
         (r.getLsbD 42 = true ∨ (r.getLsbD 45 = false ∧ r.extractLsb' 0 32 ≠ 0))) ∨
       (r.extractLsb' 46 2 = 0b01#2 ∧
         (r.extractLsb' 8 36 ≠ 0 ∨
          (r.extractLsb' 44 2 = 0b01#2 ∧ r.extractLsb' 1 7 ≠ 0) ∨
          ((r.extractLsb' 44 2 = 0b00#2 ∨ r.extractLsb' 44 2 = 0b10#2) ∧
            r.extractLsb' 0 8 ≠ 0))) ∨
       (r.extractLsb' 46 2 = 0b10#2 ∧
         (r.extractLsb' 44 2 = 0b11#2 ∨ r.extractLsb' 0 44 ≠ 0)))

/-- R152, R101: an access at any other offset is a valid record that hits no register; clocked and
in an admitted size it is refused, and under the defaults that is every offset the rule names. -/
def Obligations.OtherOffsetsHoldNoRegister : Prop :=
  (∀ (s : State) (a : Access), a.offset ≠ s.cfg.offCr → a.offset ≠ s.cfg.offSr →
    a.offset ≠ s.cfg.offDr → (a.we = false → a.wdata = 0) →
    decode s.cfg (encodeAccess a) = .noRegister a ∧
    (s.clkEn = true → a.size = .half ∨ a.size = .word →
      takeRecord (encodeAccess a) s = .refused .reservedOffset)) ∧
  (∀ o : Offset, (o.toNat = 4 ∨ 16 ≤ o.toNat ∨ o.toNat % 4 ≠ 0) →
    o ≠ Config.default.offCr ∧ o ≠ Config.default.offSr ∧ o ≠ Config.default.offDr) ∧
  decode .default 0x1004_0000_0000 =
    .noRegister { we := false, size := .word, offset := 4, wdata := 0 }

/-- An address belongs to the window of 2^AW bytes exactly where the rule says, with its offset; `we`
and the exact offset choose the step, size does not, and OFF_CR + 2 is not CR. AW is a parameter of
at most 10 bits, what a record's offset field holds (the model's choice, log entries 1 and 21). -/
def Obligations.AddressAndDirectionChooseTheStep : Prop :=
  Config.default.spiBase = 0x40013000 ∧ 2 ^ Config.default.aw.val = 1024 ∧
  (∀ (c : Config) (addr : Nat) (o : Offset),
    windowOffset c addr = some o ↔
      c.spiBase ≤ addr ∧ addr < c.spiBase + 2 ^ c.aw.val ∧ o.toNat = addr - c.spiBase) ∧
  (∀ (c : Config) (z : AccessSize) (v : Word), c.OffsetsWF →
    decodeAccess c { we := false, size := z, offset := c.offCr, wdata := v } = some (.rdCr z) ∧
    decodeAccess c { we := true, size := z, offset := c.offCr, wdata := v } = some (.wrCr z v) ∧
    decodeAccess c { we := false, size := z, offset := c.offSr, wdata := v } = some (.rdSr z) ∧
    decodeAccess c { we := true, size := z, offset := c.offSr, wdata := v } = some (.wrSr z v) ∧
    decodeAccess c { we := false, size := z, offset := c.offDr, wdata := v } = some (.rdDr z) ∧
    decodeAccess c { we := true, size := z, offset := c.offDr, wdata := v } = some (.wrDr z v) ∧
    (∀ w, decodeAccess c { we := w, size := z, offset := c.offCr + 2, wdata := v } = none)) ∧
  (∀ (c : Config) (a : Access), a.offset ≠ c.offCr → a.offset ≠ c.offSr → a.offset ≠ c.offDr →
    decodeAccess c a = none)

/-! ## 00_scope.md: what a step of the machine is -/

/-- A step takes the oldest pending record (the model's own `inputs`, log entry 3): a step of the
table runs as exec of it, an access that hits no register as its refusal, and an invalid record is
refused by name (log entry 11). Nothing is done around exec but using the record up. -/
def Obligations.StepTakesTheOldestRecord : Prop :=
  ∀ (s : State) (r : Record) (rest : List Record), s.inputs = r :: rest →
    (∀ i, decode s.cfg r = .instr i → step s = exec i { s with inputs := rest }) ∧
    (∀ a, decode s.cfg r = .noRegister a → step s = execNoRegister a { s with inputs := rest }) ∧
    (∀ why, decode s.cfg r = .invalid why → step s = .refused (.invalidRecord why))

/-- With no record pending nobody outside acts: either nothing happens, or SEQ takes a step of its
own; the machine never stops by itself (R9; log entry 3; for every free choice). -/
def Obligations.AloneOnlySeqSteps : Prop :=
  ∀ s : State, s.inputs = [] →
    step s = .next { s with draws := s.draws + 2, output := .nothing } ∨
    ∃ i t, i.agent = .seq ∧ exec i { s with draws := s.draws + 2 } = .next t ∧ step s = .next t

/-! ## 41_register_ops.md: the HOST steps -/

/-- R133, R102: the clock is checked first, then the size, for every HOST step and for an access
that hits no register. -/
def Obligations.ClockThenSizeAreCheckedFirst : Prop :=
  (∀ (i : Instr) (z : AccessSize) (s : State), i.size? = some z →
    (s.clkEn = false → exec i s = .fault (.unclockedAccess (encode s.cfg i))) ∧
    (s.clkEn = true → z = .byte ∨ z = .reserved → exec i s = .refused .badAccessSize)) ∧
  (∀ (a : Access) (s : State),
    (s.clkEn = false → execNoRegister a s = .fault (.unclockedAccess (encodeAccess a))) ∧
    (s.clkEn = true → a.size = .byte ∨ a.size = .reserved →
      execNoRegister a s = .refused .badAccessSize))

/-- RD_CR, clocked and in an admitted size, returns the word whose bit j is bit j of CR, as far as the
bus carries it, and changes nothing. -/
def Obligations.RdCrReturnsCr : Prop :=
  ∀ (z : AccessSize) (s : State), s.clkEn = true → z = .half ∨ z = .word →
    ∃ v : Word, exec (.rdCr z) s = .next { s with output := .readValue v } ∧
      (∀ j, v.getLsbD j = (decide (j < s.cfg.busw) && s.cr.getLsbD j)) ∧
      (16 ≤ s.cfg.busw → v = s.cr.setWidth 32)

/-- RD_CR after an accepted WR_CR returns exactly the REGW bits written. -/
def Obligations.CrReadsBackWhatWasWritten : Prop :=
  ∀ (z y : AccessSize) (v : Word) (s t : State), s.cfg.WidthsWF → exec (.wrCr z v) s = .next t →
    y = .half ∨ y = .word →
    exec (.rdCr y) t =
      .next { t with output := .readValue (BitVec.ofNat 32 (v.toNat % 2 ^ s.cfg.regw.val)) }

/-- WR_CR of an admitted word n (the low REGW bits of the data), while no frame is in progress, stores
it and changes nothing else: no reserved bit, and with SPE = 1 the mode bits of CR and the one
admitted configuration. -/
def Obligations.WrCrStoresAnAdmittedWord : Prop :=
  ∀ (z : AccessSize) (v : Word) (s : State) (n : Half), s.cfg.WidthsWF → s.clkEn = true →
    z = .half ∨ z = .word → n = BitVec.ofNat 16 (v.toNat % 2 ^ s.cfg.regw.val) →
    n &&& ~~~s.cfg.crImpl = 0 → s.phase = .idle →
    (n.getLsbD s.cfg.crSpe.val = true →
      n &&& s.cfg.crMode = s.cr &&& s.cfg.crMode ∧ n.getLsbD s.cfg.crMstr.val = true ∧
      n.getLsbD s.cfg.crSsm.val = true ∧ n.getLsbD s.cfg.crSsi.val = true) →
    exec (.wrCr z v) s = .next { s with cr := n, output := .nothing }

/-- Where WR_CR stops, each check after the ones before it have passed (the order of
60_exceptions.md section 4). -/
def Obligations.WrCrStopsInTheOrderOfItsChecks : Prop :=
  ∀ (z : AccessSize) (v : Word) (s : State) (n : Half), s.cfg.WidthsWF → s.clkEn = true →
    z = .half ∨ z = .word → n = BitVec.ofNat 16 (v.toNat % 2 ^ s.cfg.regw.val) →
    (n &&& ~~~s.cfg.crImpl ≠ 0 → exec (.wrCr z v) s = .refused .reservedCrBits) ∧
    (n &&& ~~~s.cfg.crImpl = 0 →
      (s.phase = .shift → exec (.wrCr z v) s = .fault (.configChangeWhileBusy s.cr n)) ∧
      (s.phase = .idle → n.getLsbD s.cfg.crSpe.val = true →
        (n &&& s.cfg.crMode ≠ s.cr &&& s.cfg.crMode →
          exec (.wrCr z v) s = .fault (.modeChangeWhileEnabled s.cr n)) ∧
        (n &&& s.cfg.crMode = s.cr &&& s.cfg.crMode →
          (n.getLsbD s.cfg.crMstr.val = false → exec (.wrCr z v) s = .refused .slaveRole) ∧
          (n.getLsbD s.cfg.crMstr.val = true →
            (n.getLsbD s.cfg.crSsm.val = false → exec (.wrCr z v) s = .refused .hardwareNss) ∧
            (n.getLsbD s.cfg.crSsm.val = true → n.getLsbD s.cfg.crSsi.val = false →
              exec (.wrCr z v) s = .fault (.modeFaultConfig n))))))

/-- From CR = 0, as after reset, one write of an enable word faults for every code of the divisor
field, under any layout (corner case (c) of WR_CR's rule; hazard HZ3). -/
def Obligations.EnablingInOneWriteFaults : Prop :=
  ∀ (z : AccessSize) (d : Nat) (s : State), s.cfg.WidthsWF → s.cfg.CrWF → d < 2 ^ s.cfg.brw.val →
    s.clkEn = true → z = .half ∨ z = .word → s.phase = .idle → s.cr = 0 →
    exec (.wrCr z ((enableWord s.cfg d).setWidth 32)) s =
      .fault (.modeChangeWhileEnabled 0 (enableWord s.cfg d))

/-- RD_SR returns the three flags at their bits and 0 elsewhere, clears nothing, and under the
default layout can return eight values only. -/
def Obligations.RdSrReturnsTheThreeFlags : Prop :=
  (∀ (z : AccessSize) (s : State), s.cfg.SrWF → s.cfg.WidthsWF → s.clkEn = true →
    z = .half ∨ z = .word →
    ∃ v : Word, exec (.rdSr z) s = .next { s with output := .readValue v } ∧
      v.getLsbD s.cfg.srRxne.val = s.rxbFull ∧
      v.getLsbD s.cfg.srTxe.val = !s.txbFull ∧
      (v.getLsbD s.cfg.srBsy.val = true ↔ s.phase = .shift) ∧
      ∀ j, j ≠ s.cfg.srRxne.val → j ≠ s.cfg.srTxe.val → j ≠ s.cfg.srBsy.val →
        v.getLsbD j = false) ∧
  (∀ (z : AccessSize) (s t : State) (v : Word), s.cfg = .default → exec (.rdSr z) s = .next t →
    t.output = .readValue v →
    v ∈ [0x0000, 0x0001, 0x0002, 0x0003, 0x0080, 0x0081, 0x0082, 0x0083])

/-- WR_SR is accepted and changes nothing, whatever the data (a form the spec marks as its own
inference, 93 U20). -/
def Obligations.WrSrChangesNothing : Prop :=
  ∀ (z : AccessSize) (v : Word) (s : State), s.clkEn = true → z = .half ∨ z = .word →
    exec (.wrSr z v) s = .next { s with output := .nothing }

/-- RD_DR with RXNE = 1 returns RXB zero-extended, clears RXNE and changes nothing else, RXB
included. -/
def Obligations.RdDrReturnsRxbAndClearsRxne : Prop :=
  ∀ (z : AccessSize) (s : State), s.cfg.WidthsWF → s.clkEn = true → z = .half ∨ z = .word →
    s.rxbFull = true →
    exec (.rdDr z) s =
      .next { s with rxbFull := false, output := .readValue (s.rxb.setWidth 32) }

/-- RD_DR with RXNE = 0 is no fault: it returns some byte zero-extended, one that nothing
constrains (draw DR2), and leaves RXNE at 0 and every register as it was. `draws` is the model's
own (log entry 7). -/
def Obligations.EarlyRdDrReturnsSomeByte : Prop :=
  ∀ (z : AccessSize) (s : State), s.cfg.WidthsWF → s.clkEn = true → z = .half ∨ z = .word →
    s.rxbFull = false →
    ∃ b : Byte, exec (.rdDr z) s =
      .next { s with draws := s.draws + 1, output := .readValue (b.setWidth 32) }

/-- WR_DR with TXE = 1 stages the low byte of the data, in any phase and whatever SPE (forms the
spec marks as its own inference, 93 after U21), and changes nothing else. -/
def Obligations.WrDrStagesTheLowByte : Prop :=
  ∀ (z : AccessSize) (v : Word) (s : State), s.cfg.WidthsWF → s.clkEn = true →
    z = .half ∨ z = .word → s.txbFull = false →
    exec (.wrDr z v) s =
      .next { s with txb := v.setWidth 8, txbFull := true, output := .nothing }

/-- WR_DR with TXE = 0 is the fault TxOverwrite, with the data and the old TXB recorded. -/
def Obligations.WrDrWhileFullFaults : Prop :=
  ∀ (z : AccessSize) (v : Word) (s : State), s.cfg.WidthsWF → s.clkEn = true →
    z = .half ∨ z = .word → s.txbFull = true → exec (.wrDr z v) s = .fault (.txOverwrite (v.setWidth 8) s.txb)

/-- Both admitted sizes do the same thing to the block (the 2-byte form is the spec's own
inference, 93 after U21). -/
def Obligations.BothSizesDoTheSame : Prop :=
  ∀ (s : State) (v : Word), s.clkEn = true →
    exec (.rdCr .half) s = exec (.rdCr .word) s ∧
    exec (.wrCr .half v) s = exec (.wrCr .word v) s ∧
    exec (.rdSr .half) s = exec (.rdSr .word) s ∧
    exec (.wrSr .half v) s = exec (.wrSr .word v) s ∧
    exec (.rdDr .half) s = exec (.rdDr .word) s ∧
    exec (.wrDr .half v) s = exec (.wrDr .word v) s

/-! ## 42_serializer.md: the SEQ steps -/

/-- HW_LOAD in its guard moves TXB into SHR, sets TXE and BSY in one step, puts the byte's first bit on
the line and changes nothing else. (With CPHA = 1 the line keeps its level, and least significant bit
first the first bit is bit 0: the model's choice, log entry 20. No skew between TXE and BSY is an
inference of the spec, log entry 12.) -/
def Obligations.HwLoadStartsTheFrame : Prop :=
  ∀ s : State, s.clkEn = true → s.cr.getLsbD s.cfg.crSpe.val = true →
    s.cr.getLsbD s.cfg.crMstr.val = true → s.cr.getLsbD s.cfg.crSsm.val = true →
    s.cr.getLsbD s.cfg.crSsi.val = true → s.phase = .idle → s.txbFull = true →
    exec .hwLoad s = .next { s with
      shr := s.txb, txbFull := false, phase := .shift, bitcnt := 0,
      mosi := if s.cfg.cpha then s.mosi else s.txb.getLsbD (if s.cfg.msbFirst then 7 else 0),
      output := .nothing }

/-- HW_SHIFT in its guard: bit 7 of SHR is what the peer samples, through routed pins only (log entry
15), m enters at bit 0 of the doubled register modulo 256, bitcnt rises by one, the clock line ends at
its resting level (R172; log entry 14), the new bit 7 is on the line, and nothing else changes, SR
included. (Least significant bit first is the mirror of that, and with CPHA = 1 the bit just sent is
still on the line: the model's choice, log entry 20.) -/
def Obligations.HwShiftMovesOneBit : Prop :=
  ∀ (m : Bool) (s : State) (f : Nat), s.clkEn = true → s.phase = .shift → s.bitcnt.toNat < 8 →
    f = (if s.cfg.msbFirst then 7 else 0) →
    ∃ w : Byte,
      w.toNat = (if s.cfg.msbFirst then (2 * s.shr.toNat + m.toNat) % 256
        else s.shr.toNat / 2 + 128 * m.toNat) ∧
      (s.bitcnt + 1).toNat = s.bitcnt.toNat + 1 ∧
      exec (.hwShift m) s = .next { s with
        shr := w, bitcnt := s.bitcnt + 1, sck := s.cfg.cpol,
        mosi := if s.cfg.cpha then s.shr.getLsbD f else w.getLsbD f,
        output := if s.pinsRouted then .peerBit (s.shr.getLsbD f) else .nothing } ∧
      srView { s with shr := w, bitcnt := s.bitcnt + 1 } = srView s

/-- HW_COMPLETE in its guard delivers SHR to RXB (an unread byte stays only under KEEP_OLD) and
sets RXNE; with nothing staged the sequencer goes idle, mosi being some level (log entry 8), and
with a byte staged the next frame starts with BSY still 1 (back to back, a form that the spec marks as
its own inference, 93 after U21; log entry 12). Nothing else changes. (The clock rests at CPOL; the
line with CPHA = 1 or least significant bit first is the model's choice, log entry 20.) -/
def Obligations.HwCompleteDeliversTheByte : Prop :=
  ∀ (s : State) (b : Byte), s.clkEn = true → s.phase = .shift → s.bitcnt = 8 →
    b = (if s.rxbFull = true ∧ s.cfg.rxOverrun = .keepOld then s.rxb else s.shr) →
    (s.txbFull = false → ∃ level : Bool,
      exec .hwComplete s = .next { s with
        rxb := b, rxbFull := true, phase := .idle, bitcnt := 0, sck := s.cfg.cpol,
        mosi := level, draws := s.draws + 1, output := .nothing }) ∧
    (s.txbFull = true →
      exec .hwComplete s = .next { s with
        rxb := b, rxbFull := true, shr := s.txb, txbFull := false, phase := .shift,
        bitcnt := 0,
        mosi := if s.cfg.cpha then s.mosi else s.txb.getLsbD (if s.cfg.msbFirst then 7 else 0),
        output := .nothing })

/-- HW_FRAME in its guard: the peer receives SHR as it was, through routed pins only (log entry 15),
RXB takes the peer's byte r unless KEEP_OLD keeps an unread one, and the frame ends as HW_COMPLETE
ends it: idle with mosi at some level (log entry 8), or back to back (the spec's own inference, 93
after U21; log entry 12). That sck ends at its resting level is log entry 14, the line with CPHA = 1
or least significant bit first is log entry 20. -/
def Obligations.HwFrameRunsAWholeFrame : Prop :=
  ∀ (r : Byte) (s : State) (b : Byte), s.clkEn = true → s.phase = .shift → s.bitcnt = 0 →
    b = (if s.rxbFull = true ∧ s.cfg.rxOverrun = .keepOld then s.rxb else r) →
    (s.txbFull = false → ∃ level : Bool,
      exec (.hwFrame r) s = .next { s with
        rxb := b, rxbFull := true, shr := r, phase := .idle, bitcnt := 0, sck := s.cfg.cpol,
        mosi := level, draws := s.draws + 1,
        output := if s.pinsRouted then .peerByte s.shr else .nothing }) ∧
    (s.txbFull = true →
      exec (.hwFrame r) s = .next { s with
        rxb := b, rxbFull := true, shr := s.txb, txbFull := false, phase := .shift,
        bitcnt := 0, sck := s.cfg.cpol,
        mosi := if s.cfg.cpha then s.shr.getLsbD (if s.cfg.msbFirst then 0 else 7)
          else s.txb.getLsbD (if s.cfg.msbFirst then 7 else 0),
        output := if s.pinsRouted then .peerByte s.shr else .nothing })

/-- A SEQ step whose guard fails is not taken: it is refused by name (the model's form of "not
enabled", log entry 11). -/
def Obligations.SeqStepsNeedTheirGuards : Prop :=
  ∀ s : State,
    (¬ (active s = true ∧ s.phase = .idle ∧ s.txbFull = true) →
      exec .hwLoad s = .refused .loadNotEnabled) ∧
    (∀ m, ¬ (s.clkEn = true ∧ s.phase = .shift ∧ s.bitcnt.toNat < 8) →
      exec (.hwShift m) s = .refused .shiftNotEnabled) ∧
    (¬ (s.clkEn = true ∧ s.phase = .shift ∧ s.bitcnt = 8) →
      exec .hwComplete s = .refused .completeNotEnabled) ∧
    (∀ r, ¬ (s.clkEn = true ∧ s.phase = .shift ∧ s.bitcnt = 0) →
      exec (.hwFrame r) s = .refused .frameNotEnabled)

/-- In every state at most one of HW_LOAD, HW_SHIFT, HW_COMPLETE can be taken, and in a quiet state
no SEQ step can. -/
def Obligations.AtMostOneSeqStepIsEnabled : Prop :=
  ∀ s : State,
    (∀ m t u, ¬ (exec .hwLoad s = .next t ∧ exec (.hwShift m) s = .next u)) ∧
    (∀ t u, ¬ (exec .hwLoad s = .next t ∧ exec .hwComplete s = .next u)) ∧
    (∀ m t u, ¬ (exec (.hwShift m) s = .next t ∧ exec .hwComplete s = .next u)) ∧
    (quiet s = true → ∀ i t, i.agent = .seq → exec i s ≠ .next t)

/-- The sequencer's control flow: from (phase, bitcnt) a step of SEQ leads where the table of
section 4 says, and no other step but ENV_RESET changes the pair. That a frame that ends with a byte
staged leads to (SHIFT, 0) is the back-to-back branch, which the spec marks as its own inference
(93_implementation_defined.md part 1; log entry 12, DEDUCED). -/
def Obligations.SequencerMovesByItsTable : Prop :=
  ∀ (i : Instr) (s t : State), exec i s = .next t →
    (i = .hwLoad → s.phase = .idle ∧ t.phase = .shift ∧ t.bitcnt = 0) ∧
    (∀ m, i = .hwShift m → s.phase = .shift ∧ s.bitcnt.toNat < 8 ∧ t.phase = .shift ∧
      t.bitcnt.toNat = s.bitcnt.toNat + 1) ∧
    ((i = .hwComplete ∨ ∃ r, i = .hwFrame r) → s.phase = .shift ∧ t.bitcnt = 0 ∧
      (s.txbFull = false → t.phase = .idle) ∧ (s.txbFull = true → t.phase = .shift)) ∧
    (i = .hwComplete → s.bitcnt = 8) ∧
    (∀ r, i = .hwFrame r → s.bitcnt = 0) ∧
    (i.agent = .host ∨ i = .envClkOn ∨ i = .envPins → t.phase = s.phase ∧ t.bitcnt = s.bitcnt)

/-- Under SEQ steps alone the configuration and the clock stay, TXE can only rise and RXNE can only
rise. -/
def Obligations.SeqStepsKeepWhatPollingReliesOn : Prop :=
  ∀ (i : Instr) (s t : State), i.agent = .seq → exec i s = .next t →
    t.cr = s.cr ∧ t.clkEn = s.clkEn ∧ t.pinsRouted = s.pinsRouted ∧ t.txb = s.txb ∧
    (txe s = true → txe t = true) ∧ (rxne s = true → rxne t = true)

/-- Equivalence of the two levels: from the start of a frame, eight HW_SHIFT and an HW_COMPLETE can all
be taken and end in the state that one HW_FRAME of the byte they spell ends in, but for what the last
step gives out; and through routed pins (log entry 15) the peer samples the loaded byte bit by bit in
the order of the wire, most significant first by default. The level of mosi once idle, which R34
leaves unspecified and R177 does not speak of, is the same in both by the model's choice (log entry
8); least significant bit first and CPHA = 1 are log entry 20. -/
def Obligations.EightShiftsAndACompleteAreOneFrame : Prop :=
  ∀ (s : State) (r : Byte), s.clkEn = true → s.phase = .shift → s.bitcnt = 0 →
    ∃ os t u,
      execTrace (((List.range 8).map fun k =>
          .hwShift (r.getLsbD (if s.cfg.msbFirst then 7 - k else k))) ++ [.hwComplete]) s =
        .next (os, t) ∧
      exec (.hwFrame r) s = .next u ∧
      { t with output := .nothing } = { u with output := .nothing } ∧
      (s.pinsRouted = true →
        os = ((List.range 8).map fun k =>
          .peerBit (s.shr.getLsbD (if s.cfg.msbFirst then 7 - k else k))) ++ [.nothing] ∧
        u.output = .peerByte s.shr)

/-! ## 40_clock_pin_gating.md and 70_reset_and_hazards.md: the ENV steps -/

/-- R131: ENV_CLK_ON is always enabled, sets clk_en and changes nothing else (so it is idempotent
and resets nothing); after it, RD_SR in the reset state returns 0x0002. -/
def Obligations.EnvClkOnTurnsTheClockOn : Prop :=
  decode .default 0x9000_0000_0000 = .instr .envClkOn ∧
  (∀ s : State, exec .envClkOn s = .next { s with clkEn := true, output := .nothing }) ∧
  execTrace [.envClkOn, .rdSr .word] .reset =
    .next ([.nothing, .readValue 0x0002],
      { State.reset with clkEn := true, output := .readValue 0x0002 })

/-- ENV_PINS is always enabled, sets pins_routed and changes nothing else, so it is idempotent. -/
def Obligations.EnvPinsRoutesThePins : Prop :=
  ∀ s : State, exec .envPins s = .next { s with pinsRouted := true, output := .nothing } ∧
    (s.pinsRouted = true → exec .envPins s = .next { s with output := .nothing })

/-- Pin routing has no effect on any register-visible behaviour: every step does the same with the pins
routed and not. Both can be taken, end in the same state but for the routing and for what the peer
samples, and return the same value if it is a read; or both stop with the same fault; or both with the
same refusal. -/
def Obligations.PinRoutingChangesNothingVisible : Prop :=
  ∀ (i : Instr) (s : State),
    match exec i { s with pinsRouted := false }, exec i { s with pinsRouted := true } with
    | .next t, .next u =>
      { t with pinsRouted := true, output := .nothing } =
        { u with pinsRouted := true, output := .nothing } ∧
      ∀ v, t.output = .readValue v ↔ u.output = .readValue v
    | .fault f, .fault g => f = g
    | .refused a, .refused b => a = b
    | _, _ => False

/-- R260: ENV_RESET, whose record the rule gives, can be taken in any state and takes every element to
its value, with TXE = 1, RXNE = 0, BSY = 0, and sck = 0 where CPOL = 0 (R34); TXB, RXB, SHR and mosi
are left open (some values, log entry 6), the marks and the parameters are kept. A run starts in the state it leaves, and after it,
with the clock on, RD_CR returns 0 and RD_SR, under the default layout, 0x0002. -/
def Obligations.EnvResetRestoresTheResetValues : Prop :=
  decode .default 0x8000_0000_0000 = .instr .envReset ∧
  (∀ s : State, ∃ (b1 b2 b3 : Byte) (level rest : Bool), exec .envReset s = .next { s with
    cr := 0x0000, txbFull := false, rxbFull := false, phase := .idle, bitcnt := 0, presc := 0,
    sck := rest, clkEn := false, pinsRouted := false,
    txb := b1, rxb := b2, shr := b3, mosi := level, draws := s.draws + 4,
    output := .nothing } ∧ (s.cfg.cpol = false → rest = false)) ∧
  (∀ s t : State, exec .envReset s = .next t → txe t = true ∧ rxne t = false ∧ bsy t = false) ∧
  (∃ (b1 b2 b3 : Byte) (level : Bool), exec .envReset .reset = .next { State.reset with
    txb := b1, rxb := b2, shr := b3, mosi := level, draws := 4 }) ∧
  (∀ s : State, s.cfg = .default → ∃ t,
    execTrace [.envReset, .envClkOn, .rdCr .word, .rdSr .word] s =
      .next ([.nothing, .nothing, .readValue 0x0000, .readValue 0x0002], t))

/-- The state a run starts in has the reset values that the spec gives (TXB, RXB, SHR, mosi are
left out: the spec gives none). -/
def Obligations.ResetHoldsTheGivenValues : Prop :=
  State.reset.cr = 0x0000 ∧ State.reset.txbFull = false ∧ State.reset.rxbFull = false ∧
  State.reset.phase = .idle ∧ State.reset.bitcnt = 0 ∧ srView State.reset = 0x0002 ∧
  State.reset.sck = false ∧ State.reset.presc = 0 ∧ State.reset.clkEn = false ∧
  State.reset.pinsRouted = false ∧ State.reset.faults = .none ∧ State.reset.refused = false

/-- Clear-then-set makes the field n whatever it held, keeps every other bit, and done twice is done
once; the set alone leaves old | n; and ENV_PINS twice equals ENV_PINS once. The register of the pin
controller has 32 bits by the model's choice (log entry 19): R137 gives no width. -/
def Obligations.ClearThenSetIsAProjection : Prop :=
  (∀ (g n : Word) (p w : Nat), p + w ≤ 32 → n.toNat < 2 ^ w →
    (∀ j, j < 32 → (clearThenSet g p w n).getLsbD j =
      if p ≤ j ∧ j < p + w then n.getLsbD (j - p) else g.getLsbD j) ∧
    clearThenSet (clearThenSet g p w n) p w n = clearThenSet g p w n ∧
    (∀ j, p ≤ j → j < p + w →
      (setOnly g p n).getLsbD j = (g.getLsbD j || n.getLsbD (j - p)))) ∧
  (∀ s t u : State, exec .envPins s = .next t → exec .envPins t = .next u → u = t)

/-! ## 10_state.md: who changes what, over all steps -/

/-- R28: txb_full is set by WR_DR alone and cleared by SEQ alone, when it copies TXB to SHR; rxb_full
is set by SEQ alone, at the end of a frame, and cleared by RD_DR alone; ENV_RESET clears both. -/
def Obligations.OnlyTheirStepsChangeTheFullBits : Prop :=
  (∀ (i : Instr) (s t : State), exec i s = .next t →
    (s.txbFull = false → t.txbFull = true → ∃ z v, i = .wrDr z v) ∧
    (s.txbFull = true → t.txbFull = false →
      ((i = .hwLoad ∨ i = .hwComplete ∨ ∃ r, i = .hwFrame r) ∧ t.shr = s.txb) ∨
        i = .envReset) ∧
    (s.rxbFull = false → t.rxbFull = true → i = .hwComplete ∨ ∃ r, i = .hwFrame r) ∧
    (s.rxbFull = true → t.rxbFull = false → (∃ z, i = .rdDr z) ∨ i = .envReset)) ∧
  (∀ (z : AccessSize) (v : Word) (s t : State), exec (.wrDr z v) s = .next t → t.txbFull = true) ∧
  (∀ s t : State, exec .hwLoad s = .next t → t.txbFull = false) ∧
  (∀ s t : State, exec .hwComplete s = .next t → t.txbFull = false ∧ t.rxbFull = true) ∧
  (∀ (r : Byte) (s t : State), exec (.hwFrame r) s = .next t →
    t.txbFull = false ∧ t.rxbFull = true) ∧
  (∀ (z : AccessSize) (s t : State), exec (.rdDr z) s = .next t → t.rxbFull = false) ∧
  (∀ s t : State, exec .envReset s = .next t → t.txbFull = false ∧ t.rxbFull = false)

/-- R29: clk_en is raised by ENV_CLK_ON and lowered by ENV_RESET only, pins_routed likewise by
ENV_PINS; at reset both are 0. -/
def Obligations.OnlyEnvChangesItsInputs : Prop :=
  (∀ (i : Instr) (s t : State), exec i s = .next t →
    (s.clkEn = false → t.clkEn = true → i = .envClkOn) ∧
    (s.clkEn = true → t.clkEn = false → i = .envReset) ∧
    (s.pinsRouted = false → t.pinsRouted = true → i = .envPins) ∧
    (s.pinsRouted = true → t.pinsRouted = false → i = .envReset)) ∧
  (∀ s t : State, exec .envClkOn s = .next t → t.clkEn = true) ∧
  (∀ s t : State, exec .envPins s = .next t → t.pinsRouted = true) ∧
  (∀ s t : State, exec .envReset s = .next t → t.clkEn = false ∧ t.pinsRouted = false) ∧
  State.reset.clkEn = false ∧ State.reset.pinsRouted = false

/-- CR is written by WR_CR and ENV_RESET only; TXB by WR_DR only, RXB by the end of a frame only,
SHR by SEQ only (and by ENV_RESET, which leaves all three open). -/
def Obligations.EachRegisterHasItsWriters : Prop :=
  ∀ (i : Instr) (s t : State), i ≠ .envReset → exec i s = .next t →
    (t.cr ≠ s.cr → ∃ z v, i = .wrCr z v) ∧
    (t.txb ≠ s.txb → ∃ z v, i = .wrDr z v) ∧
    (t.rxb ≠ s.rxb → i = .hwComplete ∨ ∃ r, i = .hwFrame r) ∧
    (t.shr ≠ s.shr → i.agent = .seq)

/-- No step that answers a next state touches the recorded marks, the parameters or the pending
records (cfg and inputs are the model's own, log entries 1 and 3), and presc is written by ENV_RESET
alone (the model's choice, log entry 13: by R35 presc counts block-clock cycles, which the model does
not carry). -/
def Obligations.StepsKeepMarksAndParameters : Prop :=
  ∀ (i : Instr) (s t : State), exec i s = .next t →
    t.faults = s.faults ∧ t.refused = s.refused ∧ t.cfg = s.cfg ∧ t.inputs = s.inputs ∧
    (i ≠ .envReset → t.presc = s.presc)

/-! ## 60_exceptions.md: the closed lists -/

/-- Every model fault has the cause that the list of MF1 to MF5 gives it, and the value recorded. -/
def Obligations.FaultsHaveTheirListedCause : Prop :=
  ∀ (i : Instr) (s : State) (f : Fault), s.cfg.WidthsWF → exec i s = .fault f →
    match f with
    | .unclockedAccess r => i.agent = .host ∧ s.clkEn = false ∧ r = encode s.cfg i
    | .txOverwrite b old =>
      (∃ z v, i = .wrDr z v ∧ b = v.setWidth 8) ∧ s.txbFull = true ∧ old = s.txb
    | .configChangeWhileBusy old n =>
      (∃ z v, i = .wrCr z v ∧ n = BitVec.ofNat 16 (v.toNat % 2 ^ s.cfg.regw.val)) ∧ s.phase = .shift ∧ old = s.cr
    | .modeChangeWhileEnabled old n =>
      (∃ z v, i = .wrCr z v ∧ n = BitVec.ofNat 16 (v.toNat % 2 ^ s.cfg.regw.val)) ∧ old = s.cr ∧
        n.getLsbD s.cfg.crSpe.val = true ∧ n &&& s.cfg.crMode ≠ s.cr &&& s.cfg.crMode
    | .modeFaultConfig n =>
      (∃ z v, i = .wrCr z v ∧ n = BitVec.ofNat 16 (v.toNat % 2 ^ s.cfg.regw.val)) ∧ n.getLsbD s.cfg.crSpe.val = true ∧
        n.getLsbD s.cfg.crMstr.val = true ∧ n.getLsbD s.cfg.crSsm.val = true ∧
        n.getLsbD s.cfg.crSsi.val = false

/-- exec refuses only by the list of RF1 to RF5, for its cause there, or a SEQ step that is not
enabled; RF2 is raised by no step of the table; and an ENV step never stops. -/
def Obligations.RefusalsHaveTheirListedCause : Prop :=
  (∀ (i : Instr) (s : State) (r : Refusal), s.cfg.WidthsWF → exec i s = .refused r →
    (r = .badAccessSize ∧ (i.size? = some .byte ∨ i.size? = some .reserved)) ∨
    (∃ (z : AccessSize) (v : Word) (n : Half), i = .wrCr z v ∧
      n = BitVec.ofNat 16 (v.toNat % 2 ^ s.cfg.regw.val) ∧
      ((r = .reservedCrBits ∧ n &&& ~~~s.cfg.crImpl ≠ 0) ∨
       (r = .slaveRole ∧ n.getLsbD s.cfg.crSpe.val = true ∧
         n.getLsbD s.cfg.crMstr.val = false) ∨
       (r = .hardwareNss ∧ n.getLsbD s.cfg.crSpe.val = true ∧
         n.getLsbD s.cfg.crSsm.val = false))) ∨
    (i.agent = .seq ∧ r.isListed = false)) ∧
  (∀ (i : Instr) (s : State), i.agent = .env → ∃ t, exec i s = .next t)

/-- Along a run the marks are recorded and never cleared: a fault adds its kind, a refusal of the
list sets `refused` and leaves every register as it was, and whatever the step, reset included, the
marks already there stay (the state recorded after a stop is log entries 9 and 10). -/
def Obligations.RunsRecordMarksForGood : Prop :=
  ∀ s : State,
    (∀ k, s.faults.has k = true → (advance s).faults.has k = true) ∧
    (s.refused = true → (advance s).refused = true) ∧
    (∀ f, step s = .fault f → (advance s).faults.has f.kind = true) ∧
    (∀ r, step s = .refused r → r.isListed = true →
      advance s = { s with
        refused := true, inputs := s.inputs.tail, output := .nothing })

/-! ## Invariants that every step keeps -/

/-- Headline: every step of the machine keeps the invariants (a) to (f), whoever steps. (In (f) the
clock line rests at CPOL, 0 by default; its resting at 1 is the model's choice, log entry 20.) -/
def Obligations.StepKeepsTheInvariants : Prop :=
  ∀ s t : State, Inv s → step s = .next t → Inv t

/-- The invariants hold in the state a run starts in. -/
def Obligations.ResetMeetsTheInvariants : Prop :=
  Inv State.reset ∧ LineCarriesShr State.reset ∧ State.reset.cfg.WF

/-- Every step keeps that the data-out line carries the bit of SHR that is sent next, SHR[7] by default,
while a frame is in the shift register and CPHA = 0 (least significant bit first is log entry 20). -/
def Obligations.StepKeepsTheLineOnShr : Prop :=
  ∀ s t : State, LineCarriesShr s → step s = .next t → LineCarriesShr t

/-! ## 43_driver_sequences.md: the pseudo-operations -/

/-- R97, R98: the control word holds the mode bits, the code unscaled in the divisor field and
SPE = 0, the enable word adds SPE, neither has a reserved bit, and the default layout's values. -/
def Obligations.ControlAndEnableWordsHoldTheirFields : Prop :=
  (∀ (c : Config) (d : Nat), c.CrWF → d < 2 ^ c.brw.val →
    mstr c (controlWord c d) = true ∧ ssm c (controlWord c d) = true ∧
    ssi c (controlWord c d) = true ∧ br c (controlWord c d) = d ∧
    spe c (controlWord c d) = false ∧ hasReservedCrBit c (controlWord c d) = false ∧
    controlWord c d = (1#16 <<< c.crSsm.val) ||| (1#16 <<< c.crSsi.val) |||
      (BitVec.ofNat 16 d <<< c.crBrLo.val) ||| (1#16 <<< c.crMstr.val) ∧
    enableWord c d = controlWord c d ||| (1#16 <<< c.crSpe.val) ∧
    spe c (enableWord c d) = true ∧ hasReservedCrBit c (enableWord c d) = false) ∧
  [0, 1, 2, 3, 4, 5, 6, 7].map (controlWord .default) =
    [0x0304, 0x030C, 0x0314, 0x031C, 0x0324, 0x032C, 0x0334, 0x033C] ∧
  [0, 1, 2, 3, 4, 5, 6, 7].map (enableWord .default) =
    [0x0344, 0x034C, 0x0354, 0x035C, 0x0364, 0x036C, 0x0374, 0x037C] ∧
  (∀ d, d < 8 → controlWord .default d = 0x0304 ||| (BitVec.ofNat 16 d <<< 3) ∧
    enableWord .default d = controlWord .default d ||| 0x0040)

/-- initialize(d) for every code d of the divisor field (0 to 7 in a field of 3 bits), clocked and with
no frame in progress, whatever CR held: both writes are accepted, CR goes to CW(d) with SPE = 0 and
then to EW(d), the block ends ACTIVE, and everything else is as before. -/
def Obligations.InitializeEndsActive : Prop :=
  ∀ (d : Nat) (s : State), d < 2 ^ s.cfg.brw.val → s.cfg.CrWF → s.cfg.WidthsWF → s.clkEn = true →
    s.phase = .idle →
    ∃ w1 w2 : Instr,
      initializeCall s.cfg d = .ok [w1, w2] ∧
      exec w1 s = .next { s with cr := controlWord s.cfg d, output := .nothing } ∧
      spe s.cfg (controlWord s.cfg d) = false ∧
      exec w2 { s with cr := controlWord s.cfg d, output := .nothing } =
        .next { s with cr := enableWord s.cfg d, output := .nothing } ∧
      active { s with cr := enableWord s.cfg d } = true

/-- initialize(d) for d outside 0 to 7, in a divisor field of 3 bits, returns ConfigurationError and
makes no access (R238). That in a field of another width so does every d that does not fit it is the
model's (log entry 21, DEDUCED from R104): the spec speaks of 3 bits only. -/
def Obligations.InitializeRejectsOtherCodes : Prop :=
  (∀ (c : Config) (d : Int), c.brw = 3 → d < 0 ∨ 7 < d →
    initializeCall c d = .error .configurationError ∧
    ((Operation.initializeWith d).start c).nextInstr = none) ∧
  (∀ (c : Config) (d : Int), d < 0 ∨ 2 ^ c.brw.val ≤ d →
    initializeCall c d = .error .configurationError ∧
    ((Operation.initializeWith d).start c).nextInstr = none)

/-- receive() performs the HOST steps of transfer_byte(DUMMY): the two are the same run. -/
def Obligations.ReceiveRunsAsTransferOfTheDummy : Prop :=
  ∀ (dummy : Byte) (p : Position) (s : State),
    hostMove (.receive dummy) p s = hostMove (.transferByte dummy) p s

/-- POLL f = b as an operation of a HOST program: its own next step is one RD_SR of 4 bytes, which,
clocked, leaves the block as it is; where the flag f of the state is b the operation has then returned,
and where it is not it stands at its loop again, without bound; unclocked, its read is the fault
UnclockedAccess. Any SEQ or ENV step can come between two reads, ENV_RESET included, and whoever
moves, the program stands at its poll until a read finds that the flag holds. A read of SR of either
size can end a poll exactly where the flag holds. -/
def Obligations.PollEndsWhereTheFlagHolds : Prop :=
  (∀ (f : StatusFlag) (b : Bool) (s : State) (h : HostProgram), s.cfg.SrWF → s.cfg.WidthsWF →
    h.stage = (Operation.poll f b).start s.cfg →
    (s.clkEn = true → ∃ g t, h.move s = .next (g, t) ∧ { t with output := s.output } = s ∧
      g.rest = h.rest ∧ (f.holds s = b → g.stage.hasReturned = true) ∧ (f.holds s ≠ b → g = h)) ∧
    (s.clkEn = false → ∃ r, h.move s = .fault (.unclockedAccess r)) ∧
    (∀ i t, i.agent ≠ .host → exec i s = .next t → ProgramMove (h, s) (h, t)) ∧
    (∀ q, ProgramMove (h, s) q → q.1 = h ∨
      (f.holds s = b ∧ exec (.rdSr .word) s = .next q.2 ∧ q.1.stage.hasReturned = true ∧
        q.1.rest = h.rest))) ∧
  (∀ (f : StatusFlag) (b : Bool) (z : AccessSize) (s t : State), s.cfg.SrWF → s.cfg.WidthsWF →
    exec (.rdSr z) s = .next t →
    { t with output := s.output } = s ∧
    (pollEnds s.cfg f b t.output.value = true ↔ f.holds s = b))

/-- Headline: in a call that entered in ACTIVE and QUIET, whatever SEQ, the clock and the pins do in
between (a reset ends what the table of driver states speaks of, log entry 18), every move keeps the block ACTIVE and in a hardware state that can stand beside the
driver's position. -/
def Obligations.CallMovesKeepTheirStates : Prop :=
  ∀ (c : Call) (p q : Position) (s t : State), s.cfg.SrWF → s.cfg.WidthsWF → InCall c p s →
    MoveWithoutReset c (p, s) (q, t) → InCall c q t ∧ t.cfg = s.cfg ∧ t.cr = s.cr

/-- In such a call the HOST's next step is never a fault or a refusal: in particular DR is never
written while TXE = 0 (property 5). -/
def Obligations.CallsNeverStop : Prop :=
  ∀ (c : Call) (p : Position) (s : State), InCall c p s → ∃ q, hostMove c p s = .next q

/-- Whatever the schedule and whatever ENV does, ENV_RESET included, a call that started in QUIET and
has returned leaves the bus quiescent. Where the block was ACTIVE and no reset came (log entry 18), CR
is unchanged; send leaves RXNE = 1 and returns nothing, transfer_byte and receive leave RXNE = 0 and
return what RXB holds. -/
def Obligations.ReturnedCallsLeaveTheBusQuiet : Prop :=
  ∀ (c : Call) (s t : State) (r : Option Byte), s.cfg.SrWF → s.cfg.WidthsWF → quiet s = true →
    (Relation.ReflTransGen (Move c) (.pollTxe, s) (.returned r, t) → quiet t = true) ∧
    (active s = true →
      Relation.ReflTransGen (MoveWithoutReset c) (.pollTxe, s) (.returned r, t) →
      t.cr = s.cr ∧
      (c.reads = false → r = none ∧ rxne t = true) ∧
      (c.reads = true → r = some t.rxb ∧ rxne t = false))

/-- Whatever the schedule, without a reset (log entry 18), a call that started in ACTIVE and QUIET and
has returned sent exactly one frame, in which the peer returned some byte R; the result and the state after it are those of the
table of R206: RXB is R, or under KEEP_OLD an unread byte that was there on entry, transfer_byte and
receive return it, send returns nothing. Through pins that were routed on entry the peer received the
byte of the call (that it receives nothing through others is log entry 15). -/
def Obligations.TransferReturnsThePeersByte : Prop :=
  ∀ (c : Call) (s t : State) (r : Option Byte) (l : List (Instr × Output)),
    s.cfg.SrWF → s.cfg.WidthsWF → active s = true → quiet s = true →
    CallRun NoReset c l (.pollTxe, s) (.returned r, t) →
    ∃ R : Byte, IsFrameOf s.cfg R (l.map Prod.fst) ∧
      (s.pinsRouted = true → PeerReceived s.cfg c.byte (l.map Prod.snd)) ∧
      t.rxb = (if s.rxbFull = true ∧ s.cfg.rxOverrun = .keepOld then s.rxb else R) ∧
      r = (if c.reads then some t.rxb else none) ∧
      rxne t = !c.reads ∧ txe t = true ∧ bsy t = false ∧ t.cr = s.cr

/-- Liveness (P_PROGRESS is a premise): in every infinite run in which the HOST only polls SR and
nobody resets the block, an ACTIVE block becomes quiet, so that the waits for TXE and BSY end. -/
def Obligations.PollingEndsUnderProgress : Prop :=
  ∀ (a : Nat → Instr) (r : Nat → State), IsRun a r → Progress a r →
    Inv (r 0) → active (r 0) = true →
    (∀ n, (∃ z, a n = .rdSr z) ∨ (a n).agent = .seq ∨ a n = .envClkOn ∨ a n = .envPins) →
    ∃ n, quiet (r n) = true

/-- Stuck wait ST1: with a byte staged in a block that is not ACTIVE and idle, no SEQ step is
enabled, and a HOST program that polls for TXE = 1 goes on polling: its move (one RD_SR; clocked, it is
no fault) leads to the same place of the program and to such a state again. It is not final. -/
def Obligations.StagedByteWaitsWithoutActive : Prop :=
  ∀ (s : State) (h : HostProgram), s.cfg.SrWF → s.cfg.WidthsWF → active s = false →
    s.phase = .idle → s.txbFull = true → h.stage = .polling .txe true →
    (∀ i t, i.agent = .seq → exec i s ≠ .next t) ∧
    (s.clkEn = true → ∃ t, h.move s = .next (h, t)) ∧
    (∀ g t, h.move s = .next (g, t) →
      g = h ∧ active t = false ∧ t.phase = .idle ∧ t.txbFull = true ∧ txe t = false ∧
      ¬ Final g t) ∧
    ¬ Final h s

/-- Stuck wait ST3: with nothing staged, no frame and no unread byte, no SEQ step is enabled, and a HOST
program that polls for RXNE = 1 goes on polling: its move (one RD_SR; clocked, it is no fault) leads to
the same place of the program and to such a state again. It is not final, although the block is
quiet. -/
def Obligations.UnclockedByteNeverArrives : Prop :=
  ∀ (s : State) (h : HostProgram), s.cfg.SrWF → s.cfg.WidthsWF → quiet s = true →
    s.rxbFull = false → h.stage = .polling .rxne true →
    (∀ i t, i.agent = .seq → exec i s ≠ .next t) ∧
    (s.clkEn = true → ∃ t, h.move s = .next (h, t)) ∧
    (∀ g t, h.move s = .next (g, t) →
      g = h ∧ quiet t = true ∧ t.rxbFull = false ∧ rxne t = false ∧ ¬ Final g t) ∧
    ¬ Final h s

/-- A HOST program that consists of transfer_byte, send and receive calls and starts in QUIET, with no
mark and no record pending, ends in a final state whenever it ends, whatever the schedule and whatever
ENV does, ENV_RESET included; and no state of it is final before its last operation has returned. -/
def Obligations.ProgramsOfCallsEndFinal : Prop :=
  ∀ (l : List Call) (s t : State) (h : HostProgram), s.cfg.SrWF → s.cfg.WidthsWF →
    quiet s = true → s.inputs = [] → s.faults = .none → s.refused = false →
    Relation.ReflTransGen ProgramMove (.ofOperations (l.map .call), s) (h, t) →
    (Final h t ↔ h.hasReturned = true)
end

