-- ==== Sys2Proof/Laws/Layout.lean ====
section
/-! SUPPORT. The fields of control words and of the SR view, bit by bit, under any layout that is
well-formed (spec/00_scope.md rules R10, R11; spec/30_encoding.md rules R94, R95, R97, R98). -/

namespace Sys2Proof

@[simp] theorem Config.bit_getLsbD (p : Fin 16) (j : Nat) :
    (Config.bit p).getLsbD j = decide (j = p.val) := by
  have hp := p.isLt
  unfold Config.bit
  rw [BitVec.getLsbD_shiftLeft, BitVec.getLsbD_one]
  by_cases h : j = p.val
  · subst h; simp [hp]
  · have : j < p.val ∨ j - p.val ≠ 0 := by omega
    rcases this with a | a <;> simp [a, h]

@[simp] theorem Config.brMask_getLsbD (c : Config) (j : Nat) :
    c.brMask.getLsbD j =
      decide (j < 16 ∧ c.crBrLo.val ≤ j ∧ j < c.crBrLo.val + c.brw.val) := by
  unfold Config.brMask
  rw [BitVec.getLsbD_shiftLeft, BitVec.getLsbD_ofNat, Nat.testBit_two_pow_sub_one, Bool.eq_iff_iff]
  simp only [Bool.and_eq_true, Bool.not_eq_true', decide_eq_true_eq, decide_eq_false_iff_not]
  omega

namespace Machine

/-! ## Data on the bus -/

@[simp] theorem truncTo_getLsbD (n : Nat) (v : Word) (j : Nat) :
    (truncTo n v).getLsbD j = (decide (j < n) && v.getLsbD j) := by
  unfold truncTo
  rw [BitVec.getLsbD_ofNat, Nat.testBit_mod_two_pow, ← BitVec.getLsbD]
  by_cases h : j < 32
  · simp [h]
  · simp [h, BitVec.getLsbD_of_ge v j (by omega)]

/-- A bus that carries a register carries the register's part of a word whole. -/
theorem registerPart_eq (c : Config) (h : c.WidthsWF) (v : Word) :
    registerPart c v = truncTo c.regw.val v := by
  apply BitVec.eq_of_getLsbD_eq
  intro j _
  have := h.2
  by_cases hj : j < c.regw.val
  · simp [registerPart, onBus, hj, show j < c.busw by omega]
  · simp [registerPart, hj]

/-- The value WR_CR writes: the data modulo 2^REGW. -/
theorem crOperand_eq (c : Config) (h : c.WidthsWF) (v : Word) :
    crOperand c v = BitVec.ofNat 16 (v.toNat % 2 ^ c.regw.val) := by
  rw [crOperand, registerPart_eq c h]
  apply BitVec.eq_of_toNat_eq
  simp [truncTo]

/-- The byte WR_DR stages: the data modulo 256. -/
theorem drOperand_eq (c : Config) (h : c.WidthsWF) (v : Word) : drOperand c v = v.setWidth 8 := by
  rw [drOperand, registerPart_eq c h]
  apply BitVec.eq_of_getLsbD_eq
  intro j hj
  have := h.1
  simp [hj, show j < c.regw.val by omega]

/-- A byte reaches the HOST whole. -/
theorem busOfByte_eq (c : Config) (h : c.WidthsWF) (b : Byte) : busOfByte c b = b.setWidth 32 := by
  apply BitVec.eq_of_getLsbD_eq
  intro j hj
  have h1 := h.1
  have h2 := h.2
  by_cases hb : j < 8
  · simp [busOfByte, onBus, show j < c.busw by omega]
  · simp [busOfByte, onBus, BitVec.getLsbD_of_ge b j (by omega)]

/-- Bit j of the bus word of a register. -/
theorem busOfHalf_getLsbD (c : Config) (v : Half) (j : Nat) :
    (busOfHalf c v).getLsbD j = (decide (j < c.busw) && v.getLsbD j) := by
  rw [busOfHalf, onBus, truncTo_getLsbD, BitVec.getLsbD_setWidth]
  by_cases hj : j < 32
  · simp only [hj, decide_true, Bool.true_and]
  · rw [BitVec.getLsbD_of_ge v j (by omega), Bool.and_false]

/-- A control word that fits the register is written as it stands. -/
theorem crOperand_of_fits (c : Config) (h : c.WidthsWF) (n : Half) (v : Word)
    (hv : ∀ j, j < c.regw.val → v.getLsbD j = n.getLsbD j)
    (hn : ∀ j, c.regw.val ≤ j → n.getLsbD j = false) : crOperand c v = n := by
  apply BitVec.eq_of_getLsbD_eq
  intro j hj
  rw [crOperand, registerPart_eq c h, BitVec.getLsbD_setWidth, truncTo_getLsbD]
  by_cases a : j < c.regw.val
  · simp only [hj, a, hv j a, decide_true, Bool.true_and]
  · rw [hn j (by omega)]
    simp only [a, decide_false, Bool.false_and, Bool.and_false]

/-! ## Control words and the SR view -/

/-- Bit j of a control word, field by field. -/
theorem controlWord_getLsbD (c : Config) (d : Nat) (j : Nat) :
    (controlWord c d).getLsbD j =
      (decide (j = c.crSsm.val) || decide (j = c.crSsi.val) ||
        (decide (j < 16 ∧ c.crBrLo.val ≤ j) && d.testBit (j - c.crBrLo.val)) ||
        decide (j = c.crMstr.val)) := by
  unfold controlWord
  simp only [BitVec.getLsbD_or, Config.bit_getLsbD, BitVec.getLsbD_shiftLeft, BitVec.getLsbD_ofNat]
  congr 2
  by_cases a : j < 16
  · by_cases b : c.crBrLo.val ≤ j
    · simp [a, b, show ¬ j < c.crBrLo.val by omega, show j - c.crBrLo.val < 16 by omega]
    · simp [a, b, show j < c.crBrLo.val by omega]
  · simp [a]

/-- Bit j of an enable word. -/
theorem enableWord_getLsbD (c : Config) (d : Nat) (j : Nat) :
    (enableWord c d).getLsbD j = ((controlWord c d).getLsbD j || decide (j = c.crSpe.val)) := by
  simp [enableWord, BitVec.getLsbD_or]

/-- Bit j of the SR view. -/
theorem srView_getLsbD (s : State) (j : Nat) :
    (srView s).getLsbD j =
      ((decide (j = s.cfg.srBsy.val) && bsy s) || (decide (j = s.cfg.srTxe.val) && txe s) ||
        (decide (j = s.cfg.srRxne.val) && rxne s)) := by
  have key : ∀ (b : Bool) (p : Fin 16), (flagAt b p).getLsbD j = (decide (j = p.val) && b) := by
    intro b p
    have hp := p.isLt
    unfold flagAt
    rw [BitVec.getLsbD_shiftLeft, BitVec.getLsbD_setWidth]
    by_cases h : j = p.val
    · subst h; simp [hp]
    · by_cases h' : j < p.val
      · simp [h, h']
      · rw [BitVec.getLsbD_of_ge _ _ (show 1 ≤ j - p.val by omega)]
        simp [h]
  simp [srView, BitVec.getLsbD_or, key]

/-- The flag test on a value read from SR reads the flag (30_encoding.md R99). -/
theorem srTest_srView (s : State) (h : s.cfg.SrWF) (hw : s.cfg.WidthsWF) :
    srTest (busOfHalf s.cfg (srView s)) s.cfg.srTxe = txe s ∧
    srTest (busOfHalf s.cfg (srView s)) s.cfg.srBsy = bsy s ∧
    srTest (busOfHalf s.cfg (srView s)) s.cfg.srRxne = rxne s := by
  obtain ⟨h1, h2, h3, h4, h5, h6⟩ := h
  have hb := hw.2
  have n1 := Fin.val_ne_of_ne h1
  have n2 := Fin.val_ne_of_ne h2
  have n3 := Fin.val_ne_of_ne h3
  simp only [srTest, busOfHalf_getLsbD, srView_getLsbD]
  refine ⟨?_, ?_, ?_⟩ <;>
    simp [n1, n2, n3, n1.symm, n2.symm, n3.symm, Nat.lt_of_lt_of_le h4 hb, Nat.lt_of_lt_of_le h5 hb,
      Nat.lt_of_lt_of_le h6 hb]

end Machine

end Sys2Proof
end

