-- ==== Sys2Proof/Laws/State.lean ====
section
/-! SUPPORT. One lemma per field per update of the state, so that no proof unfolds a record update;
then the fields that the updates of a run's bookkeeping keep. -/

namespace Sys2Proof.Machine

/-! `State.withOutput` -/

@[simp] theorem State.withOutput_cr (s : State) (o : Output) : (s.withOutput o).cr = s.cr := rfl
@[simp] theorem State.withOutput_txb (s : State) (o : Output) : (s.withOutput o).txb = s.txb := rfl
@[simp] theorem State.withOutput_txbFull (s : State) (o : Output) : (s.withOutput o).txbFull =
    s.txbFull := rfl
@[simp] theorem State.withOutput_rxb (s : State) (o : Output) : (s.withOutput o).rxb = s.rxb := rfl
@[simp] theorem State.withOutput_rxbFull (s : State) (o : Output) : (s.withOutput o).rxbFull =
    s.rxbFull := rfl
@[simp] theorem State.withOutput_shr (s : State) (o : Output) : (s.withOutput o).shr = s.shr := rfl
@[simp] theorem State.withOutput_phase (s : State) (o : Output) : (s.withOutput o).phase =
    s.phase := rfl
@[simp] theorem State.withOutput_bitcnt (s : State) (o : Output) : (s.withOutput o).bitcnt =
    s.bitcnt := rfl
@[simp] theorem State.withOutput_presc (s : State) (o : Output) : (s.withOutput o).presc =
    s.presc := rfl
@[simp] theorem State.withOutput_sck (s : State) (o : Output) : (s.withOutput o).sck = s.sck := rfl
@[simp] theorem State.withOutput_mosi (s : State) (o : Output) : (s.withOutput o).mosi =
    s.mosi := rfl
@[simp] theorem State.withOutput_clkEn (s : State) (o : Output) : (s.withOutput o).clkEn =
    s.clkEn := rfl
@[simp] theorem State.withOutput_pinsRouted (s : State) (o : Output) : (s.withOutput o).pinsRouted =
    s.pinsRouted := rfl
@[simp] theorem State.withOutput_faults (s : State) (o : Output) : (s.withOutput o).faults =
    s.faults := rfl
@[simp] theorem State.withOutput_refused (s : State) (o : Output) : (s.withOutput o).refused =
    s.refused := rfl
@[simp] theorem State.withOutput_cfg (s : State) (o : Output) : (s.withOutput o).cfg = s.cfg := rfl
@[simp] theorem State.withOutput_inputs (s : State) (o : Output) : (s.withOutput o).inputs =
    s.inputs := rfl
@[simp] theorem State.withOutput_output (s : State) (o : Output) : (s.withOutput o).output =
    o := rfl
@[simp] theorem State.withOutput_draws (s : State) (o : Output) : (s.withOutput o).draws =
    s.draws := rfl

/-! `State.withInputs` -/

@[simp] theorem State.withInputs_cr (s : State) (l : List Record) : (s.withInputs l).cr =
    s.cr := rfl
@[simp] theorem State.withInputs_txb (s : State) (l : List Record) : (s.withInputs l).txb =
    s.txb := rfl
@[simp] theorem State.withInputs_txbFull (s : State) (l : List Record) : (s.withInputs l).txbFull =
    s.txbFull := rfl
@[simp] theorem State.withInputs_rxb (s : State) (l : List Record) : (s.withInputs l).rxb =
    s.rxb := rfl
@[simp] theorem State.withInputs_rxbFull (s : State) (l : List Record) : (s.withInputs l).rxbFull =
    s.rxbFull := rfl
@[simp] theorem State.withInputs_shr (s : State) (l : List Record) : (s.withInputs l).shr =
    s.shr := rfl
@[simp] theorem State.withInputs_phase (s : State) (l : List Record) : (s.withInputs l).phase =
    s.phase := rfl
@[simp] theorem State.withInputs_bitcnt (s : State) (l : List Record) : (s.withInputs l).bitcnt =
    s.bitcnt := rfl
@[simp] theorem State.withInputs_presc (s : State) (l : List Record) : (s.withInputs l).presc =
    s.presc := rfl
@[simp] theorem State.withInputs_sck (s : State) (l : List Record) : (s.withInputs l).sck =
    s.sck := rfl
@[simp] theorem State.withInputs_mosi (s : State) (l : List Record) : (s.withInputs l).mosi =
    s.mosi := rfl
@[simp] theorem State.withInputs_clkEn (s : State) (l : List Record) : (s.withInputs l).clkEn =
    s.clkEn := rfl
@[simp] theorem State.withInputs_pinsRouted (s : State) (l : List Record) : (s.withInputs l).pinsRouted =
    s.pinsRouted := rfl
@[simp] theorem State.withInputs_faults (s : State) (l : List Record) : (s.withInputs l).faults =
    s.faults := rfl
@[simp] theorem State.withInputs_refused (s : State) (l : List Record) : (s.withInputs l).refused =
    s.refused := rfl
@[simp] theorem State.withInputs_cfg (s : State) (l : List Record) : (s.withInputs l).cfg =
    s.cfg := rfl
@[simp] theorem State.withInputs_inputs (s : State) (l : List Record) : (s.withInputs l).inputs =
    l := rfl
@[simp] theorem State.withInputs_output (s : State) (l : List Record) : (s.withInputs l).output =
    s.output := rfl
@[simp] theorem State.withInputs_draws (s : State) (l : List Record) : (s.withInputs l).draws =
    s.draws := rfl

/-! `State.drawn` -/

@[simp] theorem State.drawn_cr (s : State) (k : Nat) : (s.drawn k).cr = s.cr := rfl
@[simp] theorem State.drawn_txb (s : State) (k : Nat) : (s.drawn k).txb = s.txb := rfl
@[simp] theorem State.drawn_txbFull (s : State) (k : Nat) : (s.drawn k).txbFull = s.txbFull := rfl
@[simp] theorem State.drawn_rxb (s : State) (k : Nat) : (s.drawn k).rxb = s.rxb := rfl
@[simp] theorem State.drawn_rxbFull (s : State) (k : Nat) : (s.drawn k).rxbFull = s.rxbFull := rfl
@[simp] theorem State.drawn_shr (s : State) (k : Nat) : (s.drawn k).shr = s.shr := rfl
@[simp] theorem State.drawn_phase (s : State) (k : Nat) : (s.drawn k).phase = s.phase := rfl
@[simp] theorem State.drawn_bitcnt (s : State) (k : Nat) : (s.drawn k).bitcnt = s.bitcnt := rfl
@[simp] theorem State.drawn_presc (s : State) (k : Nat) : (s.drawn k).presc = s.presc := rfl
@[simp] theorem State.drawn_sck (s : State) (k : Nat) : (s.drawn k).sck = s.sck := rfl
@[simp] theorem State.drawn_mosi (s : State) (k : Nat) : (s.drawn k).mosi = s.mosi := rfl
@[simp] theorem State.drawn_clkEn (s : State) (k : Nat) : (s.drawn k).clkEn = s.clkEn := rfl
@[simp] theorem State.drawn_pinsRouted (s : State) (k : Nat) : (s.drawn k).pinsRouted =
    s.pinsRouted := rfl
@[simp] theorem State.drawn_faults (s : State) (k : Nat) : (s.drawn k).faults = s.faults := rfl
@[simp] theorem State.drawn_refused (s : State) (k : Nat) : (s.drawn k).refused = s.refused := rfl
@[simp] theorem State.drawn_cfg (s : State) (k : Nat) : (s.drawn k).cfg = s.cfg := rfl
@[simp] theorem State.drawn_inputs (s : State) (k : Nat) : (s.drawn k).inputs = s.inputs := rfl
@[simp] theorem State.drawn_output (s : State) (k : Nat) : (s.drawn k).output = s.output := rfl
@[simp] theorem State.drawn_draws (s : State) (k : Nat) : (s.drawn k).draws = s.draws + k := rfl

/-! `State.setCr` -/

@[simp] theorem State.setCr_cr (s : State) (n : Half) : (s.setCr n).cr = n := rfl
@[simp] theorem State.setCr_txb (s : State) (n : Half) : (s.setCr n).txb = s.txb := rfl
@[simp] theorem State.setCr_txbFull (s : State) (n : Half) : (s.setCr n).txbFull = s.txbFull := rfl
@[simp] theorem State.setCr_rxb (s : State) (n : Half) : (s.setCr n).rxb = s.rxb := rfl
@[simp] theorem State.setCr_rxbFull (s : State) (n : Half) : (s.setCr n).rxbFull = s.rxbFull := rfl
@[simp] theorem State.setCr_shr (s : State) (n : Half) : (s.setCr n).shr = s.shr := rfl
@[simp] theorem State.setCr_phase (s : State) (n : Half) : (s.setCr n).phase = s.phase := rfl
@[simp] theorem State.setCr_bitcnt (s : State) (n : Half) : (s.setCr n).bitcnt = s.bitcnt := rfl
@[simp] theorem State.setCr_presc (s : State) (n : Half) : (s.setCr n).presc = s.presc := rfl
@[simp] theorem State.setCr_sck (s : State) (n : Half) : (s.setCr n).sck = s.sck := rfl
@[simp] theorem State.setCr_mosi (s : State) (n : Half) : (s.setCr n).mosi = s.mosi := rfl
@[simp] theorem State.setCr_clkEn (s : State) (n : Half) : (s.setCr n).clkEn = s.clkEn := rfl
@[simp] theorem State.setCr_pinsRouted (s : State) (n : Half) : (s.setCr n).pinsRouted =
    s.pinsRouted := rfl
@[simp] theorem State.setCr_faults (s : State) (n : Half) : (s.setCr n).faults = s.faults := rfl
@[simp] theorem State.setCr_refused (s : State) (n : Half) : (s.setCr n).refused = s.refused := rfl
@[simp] theorem State.setCr_cfg (s : State) (n : Half) : (s.setCr n).cfg = s.cfg := rfl
@[simp] theorem State.setCr_inputs (s : State) (n : Half) : (s.setCr n).inputs = s.inputs := rfl
@[simp] theorem State.setCr_output (s : State) (n : Half) : (s.setCr n).output = s.output := rfl
@[simp] theorem State.setCr_draws (s : State) (n : Half) : (s.setCr n).draws = s.draws := rfl

/-! `State.stage` -/

@[simp] theorem State.stage_cr (s : State) (b : Byte) : (s.stage b).cr = s.cr := rfl
@[simp] theorem State.stage_txb (s : State) (b : Byte) : (s.stage b).txb = b := rfl
@[simp] theorem State.stage_txbFull (s : State) (b : Byte) : (s.stage b).txbFull = true := rfl
@[simp] theorem State.stage_rxb (s : State) (b : Byte) : (s.stage b).rxb = s.rxb := rfl
@[simp] theorem State.stage_rxbFull (s : State) (b : Byte) : (s.stage b).rxbFull = s.rxbFull := rfl
@[simp] theorem State.stage_shr (s : State) (b : Byte) : (s.stage b).shr = s.shr := rfl
@[simp] theorem State.stage_phase (s : State) (b : Byte) : (s.stage b).phase = s.phase := rfl
@[simp] theorem State.stage_bitcnt (s : State) (b : Byte) : (s.stage b).bitcnt = s.bitcnt := rfl
@[simp] theorem State.stage_presc (s : State) (b : Byte) : (s.stage b).presc = s.presc := rfl
@[simp] theorem State.stage_sck (s : State) (b : Byte) : (s.stage b).sck = s.sck := rfl
@[simp] theorem State.stage_mosi (s : State) (b : Byte) : (s.stage b).mosi = s.mosi := rfl
@[simp] theorem State.stage_clkEn (s : State) (b : Byte) : (s.stage b).clkEn = s.clkEn := rfl
@[simp] theorem State.stage_pinsRouted (s : State) (b : Byte) : (s.stage b).pinsRouted =
    s.pinsRouted := rfl
@[simp] theorem State.stage_faults (s : State) (b : Byte) : (s.stage b).faults = s.faults := rfl
@[simp] theorem State.stage_refused (s : State) (b : Byte) : (s.stage b).refused = s.refused := rfl
@[simp] theorem State.stage_cfg (s : State) (b : Byte) : (s.stage b).cfg = s.cfg := rfl
@[simp] theorem State.stage_inputs (s : State) (b : Byte) : (s.stage b).inputs = s.inputs := rfl
@[simp] theorem State.stage_output (s : State) (b : Byte) : (s.stage b).output = s.output := rfl
@[simp] theorem State.stage_draws (s : State) (b : Byte) : (s.stage b).draws = s.draws := rfl

/-! `State.clearRxne` -/

@[simp] theorem State.clearRxne_cr (s : State) : (s.clearRxne).cr = s.cr := rfl
@[simp] theorem State.clearRxne_txb (s : State) : (s.clearRxne).txb = s.txb := rfl
@[simp] theorem State.clearRxne_txbFull (s : State) : (s.clearRxne).txbFull = s.txbFull := rfl
@[simp] theorem State.clearRxne_rxb (s : State) : (s.clearRxne).rxb = s.rxb := rfl
@[simp] theorem State.clearRxne_rxbFull (s : State) : (s.clearRxne).rxbFull = false := rfl
@[simp] theorem State.clearRxne_shr (s : State) : (s.clearRxne).shr = s.shr := rfl
@[simp] theorem State.clearRxne_phase (s : State) : (s.clearRxne).phase = s.phase := rfl
@[simp] theorem State.clearRxne_bitcnt (s : State) : (s.clearRxne).bitcnt = s.bitcnt := rfl
@[simp] theorem State.clearRxne_presc (s : State) : (s.clearRxne).presc = s.presc := rfl
@[simp] theorem State.clearRxne_sck (s : State) : (s.clearRxne).sck = s.sck := rfl
@[simp] theorem State.clearRxne_mosi (s : State) : (s.clearRxne).mosi = s.mosi := rfl
@[simp] theorem State.clearRxne_clkEn (s : State) : (s.clearRxne).clkEn = s.clkEn := rfl
@[simp] theorem State.clearRxne_pinsRouted (s : State) : (s.clearRxne).pinsRouted =
    s.pinsRouted := rfl
@[simp] theorem State.clearRxne_faults (s : State) : (s.clearRxne).faults = s.faults := rfl
@[simp] theorem State.clearRxne_refused (s : State) : (s.clearRxne).refused = s.refused := rfl
@[simp] theorem State.clearRxne_cfg (s : State) : (s.clearRxne).cfg = s.cfg := rfl
@[simp] theorem State.clearRxne_inputs (s : State) : (s.clearRxne).inputs = s.inputs := rfl
@[simp] theorem State.clearRxne_output (s : State) : (s.clearRxne).output = s.output := rfl
@[simp] theorem State.clearRxne_draws (s : State) : (s.clearRxne).draws = s.draws := rfl

/-! `State.loadFrame` -/

@[simp] theorem State.loadFrame_cr (s : State) : (s.loadFrame).cr = s.cr := rfl
@[simp] theorem State.loadFrame_txb (s : State) : (s.loadFrame).txb = s.txb := rfl
@[simp] theorem State.loadFrame_txbFull (s : State) : (s.loadFrame).txbFull = false := rfl
@[simp] theorem State.loadFrame_rxb (s : State) : (s.loadFrame).rxb = s.rxb := rfl
@[simp] theorem State.loadFrame_rxbFull (s : State) : (s.loadFrame).rxbFull = s.rxbFull := rfl
@[simp] theorem State.loadFrame_shr (s : State) : (s.loadFrame).shr = s.txb := rfl
@[simp] theorem State.loadFrame_phase (s : State) : (s.loadFrame).phase = .shift := rfl
@[simp] theorem State.loadFrame_bitcnt (s : State) : (s.loadFrame).bitcnt = 0 := rfl
@[simp] theorem State.loadFrame_presc (s : State) : (s.loadFrame).presc = s.presc := rfl
@[simp] theorem State.loadFrame_sck (s : State) : (s.loadFrame).sck = s.sck := rfl
@[simp] theorem State.loadFrame_mosi (s : State) : (s.loadFrame).mosi =
    if s.cfg.cpha then s.mosi else lineBit s.cfg s.txb := rfl
@[simp] theorem State.loadFrame_clkEn (s : State) : (s.loadFrame).clkEn = s.clkEn := rfl
@[simp] theorem State.loadFrame_pinsRouted (s : State) : (s.loadFrame).pinsRouted =
    s.pinsRouted := rfl
@[simp] theorem State.loadFrame_faults (s : State) : (s.loadFrame).faults = s.faults := rfl
@[simp] theorem State.loadFrame_refused (s : State) : (s.loadFrame).refused = s.refused := rfl
@[simp] theorem State.loadFrame_cfg (s : State) : (s.loadFrame).cfg = s.cfg := rfl
@[simp] theorem State.loadFrame_inputs (s : State) : (s.loadFrame).inputs = s.inputs := rfl
@[simp] theorem State.loadFrame_output (s : State) : (s.loadFrame).output = s.output := rfl
@[simp] theorem State.loadFrame_draws (s : State) : (s.loadFrame).draws = s.draws := rfl

/-! `State.shiftBit` -/

@[simp] theorem State.shiftBit_cr (s : State) (m : Bool) : (s.shiftBit m).cr = s.cr := rfl
@[simp] theorem State.shiftBit_txb (s : State) (m : Bool) : (s.shiftBit m).txb = s.txb := rfl
@[simp] theorem State.shiftBit_txbFull (s : State) (m : Bool) : (s.shiftBit m).txbFull =
    s.txbFull := rfl
@[simp] theorem State.shiftBit_rxb (s : State) (m : Bool) : (s.shiftBit m).rxb = s.rxb := rfl
@[simp] theorem State.shiftBit_rxbFull (s : State) (m : Bool) : (s.shiftBit m).rxbFull =
    s.rxbFull := rfl
@[simp] theorem State.shiftBit_shr (s : State) (m : Bool) : (s.shiftBit m).shr =
    shiftIn s.cfg s.shr m := rfl
@[simp] theorem State.shiftBit_phase (s : State) (m : Bool) : (s.shiftBit m).phase = s.phase := rfl
@[simp] theorem State.shiftBit_bitcnt (s : State) (m : Bool) : (s.shiftBit m).bitcnt =
    s.bitcnt + 1 := rfl
@[simp] theorem State.shiftBit_presc (s : State) (m : Bool) : (s.shiftBit m).presc = s.presc := rfl
@[simp] theorem State.shiftBit_sck (s : State) (m : Bool) : (s.shiftBit m).sck =
    s.cfg.cpol := rfl
@[simp] theorem State.shiftBit_mosi (s : State) (m : Bool) : (s.shiftBit m).mosi =
    lineBit s.cfg (if s.cfg.cpha then s.shr else shiftIn s.cfg s.shr m) := rfl
@[simp] theorem State.shiftBit_clkEn (s : State) (m : Bool) : (s.shiftBit m).clkEn = s.clkEn := rfl
@[simp] theorem State.shiftBit_pinsRouted (s : State) (m : Bool) : (s.shiftBit m).pinsRouted =
    s.pinsRouted := rfl
@[simp] theorem State.shiftBit_faults (s : State) (m : Bool) : (s.shiftBit m).faults =
    s.faults := rfl
@[simp] theorem State.shiftBit_refused (s : State) (m : Bool) : (s.shiftBit m).refused =
    s.refused := rfl
@[simp] theorem State.shiftBit_cfg (s : State) (m : Bool) : (s.shiftBit m).cfg = s.cfg := rfl
@[simp] theorem State.shiftBit_inputs (s : State) (m : Bool) : (s.shiftBit m).inputs =
    s.inputs := rfl
@[simp] theorem State.shiftBit_output (s : State) (m : Bool) : (s.shiftBit m).output =
    s.output := rfl
@[simp] theorem State.shiftBit_draws (s : State) (m : Bool) : (s.shiftBit m).draws = s.draws := rfl

/-! `State.fillFrame` -/

@[simp] theorem State.fillFrame_cr (s : State) (r : Byte) : (s.fillFrame r).cr = s.cr := rfl
@[simp] theorem State.fillFrame_txb (s : State) (r : Byte) : (s.fillFrame r).txb = s.txb := rfl
@[simp] theorem State.fillFrame_txbFull (s : State) (r : Byte) : (s.fillFrame r).txbFull =
    s.txbFull := rfl
@[simp] theorem State.fillFrame_rxb (s : State) (r : Byte) : (s.fillFrame r).rxb = s.rxb := rfl
@[simp] theorem State.fillFrame_rxbFull (s : State) (r : Byte) : (s.fillFrame r).rxbFull =
    s.rxbFull := rfl
@[simp] theorem State.fillFrame_shr (s : State) (r : Byte) : (s.fillFrame r).shr = r := rfl
@[simp] theorem State.fillFrame_phase (s : State) (r : Byte) : (s.fillFrame r).phase =
    s.phase := rfl
@[simp] theorem State.fillFrame_bitcnt (s : State) (r : Byte) : (s.fillFrame r).bitcnt = 8 := rfl
@[simp] theorem State.fillFrame_presc (s : State) (r : Byte) : (s.fillFrame r).presc =
    s.presc := rfl
@[simp] theorem State.fillFrame_sck (s : State) (r : Byte) : (s.fillFrame r).sck =
    s.cfg.cpol := rfl
@[simp] theorem State.fillFrame_mosi (s : State) (r : Byte) : (s.fillFrame r).mosi =
    if s.cfg.cpha then lastBit s.cfg s.shr else s.mosi := rfl
@[simp] theorem State.fillFrame_clkEn (s : State) (r : Byte) : (s.fillFrame r).clkEn =
    s.clkEn := rfl
@[simp] theorem State.fillFrame_pinsRouted (s : State) (r : Byte) : (s.fillFrame r).pinsRouted =
    s.pinsRouted := rfl
@[simp] theorem State.fillFrame_faults (s : State) (r : Byte) : (s.fillFrame r).faults =
    s.faults := rfl
@[simp] theorem State.fillFrame_refused (s : State) (r : Byte) : (s.fillFrame r).refused =
    s.refused := rfl
@[simp] theorem State.fillFrame_cfg (s : State) (r : Byte) : (s.fillFrame r).cfg = s.cfg := rfl
@[simp] theorem State.fillFrame_inputs (s : State) (r : Byte) : (s.fillFrame r).inputs =
    s.inputs := rfl
@[simp] theorem State.fillFrame_output (s : State) (r : Byte) : (s.fillFrame r).output =
    s.output := rfl
@[simp] theorem State.fillFrame_draws (s : State) (r : Byte) : (s.fillFrame r).draws =
    s.draws := rfl

/-! `State.deliver` -/

@[simp] theorem State.deliver_cr (s : State) : (s.deliver).cr = s.cr := rfl
@[simp] theorem State.deliver_txb (s : State) : (s.deliver).txb = s.txb := rfl
@[simp] theorem State.deliver_txbFull (s : State) : (s.deliver).txbFull = s.txbFull := rfl
@[simp] theorem State.deliver_rxb (s : State) : (s.deliver).rxb =
    if !s.rxbFull || s.cfg.rxOverrun == .overwrite then s.shr else s.rxb := rfl
@[simp] theorem State.deliver_rxbFull (s : State) : (s.deliver).rxbFull = true := rfl
@[simp] theorem State.deliver_shr (s : State) : (s.deliver).shr = s.shr := rfl
@[simp] theorem State.deliver_phase (s : State) : (s.deliver).phase = s.phase := rfl
@[simp] theorem State.deliver_bitcnt (s : State) : (s.deliver).bitcnt = s.bitcnt := rfl
@[simp] theorem State.deliver_presc (s : State) : (s.deliver).presc = s.presc := rfl
@[simp] theorem State.deliver_sck (s : State) : (s.deliver).sck = s.sck := rfl
@[simp] theorem State.deliver_mosi (s : State) : (s.deliver).mosi = s.mosi := rfl
@[simp] theorem State.deliver_clkEn (s : State) : (s.deliver).clkEn = s.clkEn := rfl
@[simp] theorem State.deliver_pinsRouted (s : State) : (s.deliver).pinsRouted = s.pinsRouted := rfl
@[simp] theorem State.deliver_faults (s : State) : (s.deliver).faults = s.faults := rfl
@[simp] theorem State.deliver_refused (s : State) : (s.deliver).refused = s.refused := rfl
@[simp] theorem State.deliver_cfg (s : State) : (s.deliver).cfg = s.cfg := rfl
@[simp] theorem State.deliver_inputs (s : State) : (s.deliver).inputs = s.inputs := rfl
@[simp] theorem State.deliver_output (s : State) : (s.deliver).output = s.output := rfl
@[simp] theorem State.deliver_draws (s : State) : (s.deliver).draws = s.draws := rfl

/-! `State.endFrame` -/

@[simp] theorem State.endFrame_cr (s : State) : (s.endFrame).cr = s.cr := rfl
@[simp] theorem State.endFrame_txb (s : State) : (s.endFrame).txb = s.txb := rfl
@[simp] theorem State.endFrame_txbFull (s : State) : (s.endFrame).txbFull = s.txbFull := rfl
@[simp] theorem State.endFrame_rxb (s : State) : (s.endFrame).rxb = s.rxb := rfl
@[simp] theorem State.endFrame_rxbFull (s : State) : (s.endFrame).rxbFull = s.rxbFull := rfl
@[simp] theorem State.endFrame_shr (s : State) : (s.endFrame).shr = s.shr := rfl
@[simp] theorem State.endFrame_phase (s : State) : (s.endFrame).phase = .idle := rfl
@[simp] theorem State.endFrame_bitcnt (s : State) : (s.endFrame).bitcnt = 0 := rfl
@[simp] theorem State.endFrame_presc (s : State) : (s.endFrame).presc = s.presc := rfl
@[simp] theorem State.endFrame_sck (s : State) : (s.endFrame).sck = s.cfg.cpol := rfl
@[simp] theorem State.endFrame_mosi (s : State) : (s.endFrame).mosi = Config.freeBit s.draws := rfl
@[simp] theorem State.endFrame_clkEn (s : State) : (s.endFrame).clkEn = s.clkEn := rfl
@[simp] theorem State.endFrame_pinsRouted (s : State) : (s.endFrame).pinsRouted =
    s.pinsRouted := rfl
@[simp] theorem State.endFrame_faults (s : State) : (s.endFrame).faults = s.faults := rfl
@[simp] theorem State.endFrame_refused (s : State) : (s.endFrame).refused = s.refused := rfl
@[simp] theorem State.endFrame_cfg (s : State) : (s.endFrame).cfg = s.cfg := rfl
@[simp] theorem State.endFrame_inputs (s : State) : (s.endFrame).inputs = s.inputs := rfl
@[simp] theorem State.endFrame_output (s : State) : (s.endFrame).output = s.output := rfl
@[simp] theorem State.endFrame_draws (s : State) : (s.endFrame).draws = s.draws + 1 := rfl

/-! `State.clockOn` -/

@[simp] theorem State.clockOn_cr (s : State) : (s.clockOn).cr = s.cr := rfl
@[simp] theorem State.clockOn_txb (s : State) : (s.clockOn).txb = s.txb := rfl
@[simp] theorem State.clockOn_txbFull (s : State) : (s.clockOn).txbFull = s.txbFull := rfl
@[simp] theorem State.clockOn_rxb (s : State) : (s.clockOn).rxb = s.rxb := rfl
@[simp] theorem State.clockOn_rxbFull (s : State) : (s.clockOn).rxbFull = s.rxbFull := rfl
@[simp] theorem State.clockOn_shr (s : State) : (s.clockOn).shr = s.shr := rfl
@[simp] theorem State.clockOn_phase (s : State) : (s.clockOn).phase = s.phase := rfl
@[simp] theorem State.clockOn_bitcnt (s : State) : (s.clockOn).bitcnt = s.bitcnt := rfl
@[simp] theorem State.clockOn_presc (s : State) : (s.clockOn).presc = s.presc := rfl
@[simp] theorem State.clockOn_sck (s : State) : (s.clockOn).sck = s.sck := rfl
@[simp] theorem State.clockOn_mosi (s : State) : (s.clockOn).mosi = s.mosi := rfl
@[simp] theorem State.clockOn_clkEn (s : State) : (s.clockOn).clkEn = true := rfl
@[simp] theorem State.clockOn_pinsRouted (s : State) : (s.clockOn).pinsRouted = s.pinsRouted := rfl
@[simp] theorem State.clockOn_faults (s : State) : (s.clockOn).faults = s.faults := rfl
@[simp] theorem State.clockOn_refused (s : State) : (s.clockOn).refused = s.refused := rfl
@[simp] theorem State.clockOn_cfg (s : State) : (s.clockOn).cfg = s.cfg := rfl
@[simp] theorem State.clockOn_inputs (s : State) : (s.clockOn).inputs = s.inputs := rfl
@[simp] theorem State.clockOn_output (s : State) : (s.clockOn).output = s.output := rfl
@[simp] theorem State.clockOn_draws (s : State) : (s.clockOn).draws = s.draws := rfl

/-! `State.routePins` -/

@[simp] theorem State.routePins_cr (s : State) : (s.routePins).cr = s.cr := rfl
@[simp] theorem State.routePins_txb (s : State) : (s.routePins).txb = s.txb := rfl
@[simp] theorem State.routePins_txbFull (s : State) : (s.routePins).txbFull = s.txbFull := rfl
@[simp] theorem State.routePins_rxb (s : State) : (s.routePins).rxb = s.rxb := rfl
@[simp] theorem State.routePins_rxbFull (s : State) : (s.routePins).rxbFull = s.rxbFull := rfl
@[simp] theorem State.routePins_shr (s : State) : (s.routePins).shr = s.shr := rfl
@[simp] theorem State.routePins_phase (s : State) : (s.routePins).phase = s.phase := rfl
@[simp] theorem State.routePins_bitcnt (s : State) : (s.routePins).bitcnt = s.bitcnt := rfl
@[simp] theorem State.routePins_presc (s : State) : (s.routePins).presc = s.presc := rfl
@[simp] theorem State.routePins_sck (s : State) : (s.routePins).sck = s.sck := rfl
@[simp] theorem State.routePins_mosi (s : State) : (s.routePins).mosi = s.mosi := rfl
@[simp] theorem State.routePins_clkEn (s : State) : (s.routePins).clkEn = s.clkEn := rfl
@[simp] theorem State.routePins_pinsRouted (s : State) : (s.routePins).pinsRouted = true := rfl
@[simp] theorem State.routePins_faults (s : State) : (s.routePins).faults = s.faults := rfl
@[simp] theorem State.routePins_refused (s : State) : (s.routePins).refused = s.refused := rfl
@[simp] theorem State.routePins_cfg (s : State) : (s.routePins).cfg = s.cfg := rfl
@[simp] theorem State.routePins_inputs (s : State) : (s.routePins).inputs = s.inputs := rfl
@[simp] theorem State.routePins_output (s : State) : (s.routePins).output = s.output := rfl
@[simp] theorem State.routePins_draws (s : State) : (s.routePins).draws = s.draws := rfl

/-! `State.resetRegisters` -/

@[simp] theorem State.resetRegisters_cr (s : State) : (s.resetRegisters).cr = 0 := rfl
@[simp] theorem State.resetRegisters_txb (s : State) : (s.resetRegisters).txb =
    Config.freeByte s.draws := rfl
@[simp] theorem State.resetRegisters_txbFull (s : State) : (s.resetRegisters).txbFull = false := rfl
@[simp] theorem State.resetRegisters_rxb (s : State) : (s.resetRegisters).rxb =
    Config.freeByte (s.draws + 1) := rfl
@[simp] theorem State.resetRegisters_rxbFull (s : State) : (s.resetRegisters).rxbFull = false := rfl
@[simp] theorem State.resetRegisters_shr (s : State) : (s.resetRegisters).shr =
    Config.freeByte (s.draws + 2) := rfl
@[simp] theorem State.resetRegisters_phase (s : State) : (s.resetRegisters).phase = .idle := rfl
@[simp] theorem State.resetRegisters_bitcnt (s : State) : (s.resetRegisters).bitcnt = 0 := rfl
@[simp] theorem State.resetRegisters_presc (s : State) : (s.resetRegisters).presc = 0 := rfl
@[simp] theorem State.resetRegisters_sck (s : State) : (s.resetRegisters).sck =
    s.cfg.cpol := rfl
@[simp] theorem State.resetRegisters_mosi (s : State) : (s.resetRegisters).mosi =
    Config.freeBit (s.draws + 3) := rfl
@[simp] theorem State.resetRegisters_clkEn (s : State) : (s.resetRegisters).clkEn = false := rfl
@[simp] theorem State.resetRegisters_pinsRouted (s : State) : (s.resetRegisters).pinsRouted =
    false := rfl
@[simp] theorem State.resetRegisters_faults (s : State) : (s.resetRegisters).faults =
    s.faults := rfl
@[simp] theorem State.resetRegisters_refused (s : State) : (s.resetRegisters).refused =
    s.refused := rfl
@[simp] theorem State.resetRegisters_cfg (s : State) : (s.resetRegisters).cfg = s.cfg := rfl
@[simp] theorem State.resetRegisters_inputs (s : State) : (s.resetRegisters).inputs =
    s.inputs := rfl
@[simp] theorem State.resetRegisters_output (s : State) : (s.resetRegisters).output =
    s.output := rfl
@[simp] theorem State.resetRegisters_draws (s : State) : (s.resetRegisters).draws =
    s.draws + 4 := rfl

/-! Bookkeeping of a run -/

@[simp] theorem State.undefined_clkEn (s : State) : s.undefined.clkEn = s.clkEn := rfl
@[simp] theorem State.recordFault_clkEn (s : State) (k : FaultKind) :
    (s.recordFault k).clkEn = s.clkEn := rfl
@[simp] theorem State.undefined_pinsRouted (s : State) : s.undefined.pinsRouted = s.pinsRouted := rfl
@[simp] theorem State.recordFault_pinsRouted (s : State) (k : FaultKind) :
    (s.recordFault k).pinsRouted = s.pinsRouted := rfl
@[simp] theorem State.undefined_cfg (s : State) : s.undefined.cfg = s.cfg := rfl
@[simp] theorem State.recordFault_cfg (s : State) (k : FaultKind) :
    (s.recordFault k).cfg = s.cfg := rfl
@[simp] theorem State.undefined_inputs (s : State) : s.undefined.inputs = s.inputs := rfl
@[simp] theorem State.recordFault_inputs (s : State) (k : FaultKind) :
    (s.recordFault k).inputs = s.inputs := rfl
@[simp] theorem State.undefined_faults (s : State) : s.undefined.faults = s.faults := rfl
@[simp] theorem State.undefined_refused (s : State) : s.undefined.refused = s.refused := rfl
@[simp] theorem State.recordFault_faults (s : State) (k : FaultKind) :
    (s.recordFault k).faults = s.faults.add k := rfl
@[simp] theorem State.recordFault_refused (s : State) (k : FaultKind) :
    (s.recordFault k).refused = s.refused := rfl
@[simp] theorem State.recordRefusal_cr (s : State) (r : Refusal) :
    (s.recordRefusal r).cr = s.cr := rfl
@[simp] theorem State.recordRefusal_txb (s : State) (r : Refusal) :
    (s.recordRefusal r).txb = s.txb := rfl
@[simp] theorem State.recordRefusal_txbFull (s : State) (r : Refusal) :
    (s.recordRefusal r).txbFull = s.txbFull := rfl
@[simp] theorem State.recordRefusal_rxb (s : State) (r : Refusal) :
    (s.recordRefusal r).rxb = s.rxb := rfl
@[simp] theorem State.recordRefusal_rxbFull (s : State) (r : Refusal) :
    (s.recordRefusal r).rxbFull = s.rxbFull := rfl
@[simp] theorem State.recordRefusal_shr (s : State) (r : Refusal) :
    (s.recordRefusal r).shr = s.shr := rfl
@[simp] theorem State.recordRefusal_phase (s : State) (r : Refusal) :
    (s.recordRefusal r).phase = s.phase := rfl
@[simp] theorem State.recordRefusal_bitcnt (s : State) (r : Refusal) :
    (s.recordRefusal r).bitcnt = s.bitcnt := rfl
@[simp] theorem State.recordRefusal_presc (s : State) (r : Refusal) :
    (s.recordRefusal r).presc = s.presc := rfl
@[simp] theorem State.recordRefusal_sck (s : State) (r : Refusal) :
    (s.recordRefusal r).sck = s.sck := rfl
@[simp] theorem State.recordRefusal_mosi (s : State) (r : Refusal) :
    (s.recordRefusal r).mosi = s.mosi := rfl
@[simp] theorem State.recordRefusal_clkEn (s : State) (r : Refusal) :
    (s.recordRefusal r).clkEn = s.clkEn := rfl
@[simp] theorem State.recordRefusal_pinsRouted (s : State) (r : Refusal) :
    (s.recordRefusal r).pinsRouted = s.pinsRouted := rfl
@[simp] theorem State.recordRefusal_faults (s : State) (r : Refusal) :
    (s.recordRefusal r).faults = s.faults := rfl
@[simp] theorem State.recordRefusal_refused (s : State) (r : Refusal) :
    (s.recordRefusal r).refused = (s.refused || r.isListed) := rfl
@[simp] theorem State.recordRefusal_cfg (s : State) (r : Refusal) :
    (s.recordRefusal r).cfg = s.cfg := rfl
@[simp] theorem State.recordRefusal_inputs (s : State) (r : Refusal) :
    (s.recordRefusal r).inputs = s.inputs := rfl
@[simp] theorem State.recordRefusal_output (s : State) (r : Refusal) :
    (s.recordRefusal r).output = .nothing := rfl
@[simp] theorem State.recordRefusal_draws (s : State) (r : Refusal) :
    (s.recordRefusal r).draws = s.draws := rfl

/-- A kind added is in the set. -/
@[simp] theorem FaultMarks.has_add_self (m : FaultMarks) (k : FaultKind) : (m.add k).has k = true := by
  cases k <;> rfl

/-- Adding a kind takes none out. -/
theorem FaultMarks.has_add (m : FaultMarks) (j k : FaultKind) (h : m.has j = true) :
    (m.add k).has j = true := by
  cases j <;> cases k <;> first | exact h | rfl

end Sys2Proof.Machine
end

