-- ==== Sys2Proof/Laws/Ops.lean ====
section
/-! SUPPORT. For each shared operation one lemma that says what it can do when it answers a next
state; for each step one lemma that says what state it answers; and for the step function one
that says what a step is. The provers cite these and do not unfold the operations. -/

namespace Sys2Proof.Machine

/-! ## Shared operations -/

@[simp] theorem done_next (s t : State) : done s = .next t ↔ s.withOutput .nothing = t := by
  simp [done]

@[simp] theorem returning_next (v : Word) (s t : State) :
    returning v s = .next t ↔ s.withOutput (.readValue v) = t := by
  simp [returning]

/-- A HOST step is taken only while the block is clocked and in an admitted size. -/
theorem hostStep_next {record : Record} {size : AccessSize} {s t : State} {k : State → Result} :
    hostStep record size s k = .next t ↔
      s.clkEn = true ∧ size.admitted = true ∧ k s = .next t := by
  unfold hostStep
  cases s.clkEn <;> cases size.admitted <;> simp

/-- When the common checks let a HOST step through, its own rule decides. -/
theorem hostStep_pass {record : Record} {size : AccessSize} {s : State} {k : State → Result}
    (hc : s.clkEn = true) (hz : size.admitted = true) : hostStep record size s k = k s := by
  simp [hostStep, hc, hz]

/-- What an accepted control word satisfies, and what it does. -/
theorem writeCr_next {n : Half} {s t : State} :
    writeCr n s = .next t ↔
      hasReservedCrBit s.cfg n = false ∧ s.phase = .idle ∧
      (spe s.cfg n = true → changesMode s.cfg s.cr n = false ∧ mstr s.cfg n = true ∧
        ssm s.cfg n = true ∧ ssi s.cfg n = true) ∧
      (s.setCr n).withOutput .nothing = t := by
  unfold writeCr
  cases hasReservedCrBit s.cfg n <;> cases hp : s.phase <;> cases spe s.cfg n <;>
    cases changesMode s.cfg s.cr n <;> cases mstr s.cfg n <;> cases ssm s.cfg n <;>
    cases ssi s.cfg n <;> simp

/-- A read of DR returns RXB or a free value, and clears RXNE. -/
theorem readDr_next {s t : State} :
    readDr s = .next t ↔
      (s.rxbFull = true ∧ s.clearRxne.withOutput (.readValue (busOfByte s.cfg s.rxb)) = t) ∨
      (s.rxbFull = false ∧
        (s.clearRxne.drawn 1).withOutput (.readValue (busOfByte s.cfg (Config.freeByte s.draws))) = t) := by
  unfold readDr
  cases s.rxbFull <;> simp

/-- A write of DR is taken only while nothing is staged. -/
theorem writeDr_next {b : Byte} {s t : State} :
    writeDr b s = .next t ↔ s.txbFull = false ∧ (s.stage b).withOutput .nothing = t := by
  unfold writeDr
  cases s.txbFull <;> simp

/-- The end of a frame: delivery, then back to back or idle. -/
theorem finishFrame_cases (s : State) :
    (s.txbFull = true ∧ finishFrame s = s.deliver.loadFrame) ∨
    (s.txbFull = false ∧ finishFrame s = s.deliver.endFrame) := by
  unfold finishFrame
  cases s.txbFull <;> simp

/-- What the end of a frame does to every field but RXB, SHR, sck, mosi and the draws. -/
theorem finishFrame_keeps (s : State) :
    (finishFrame s).cr = s.cr ∧ (finishFrame s).txb = s.txb ∧ (finishFrame s).txbFull = false ∧
    (finishFrame s).rxbFull = true ∧ (finishFrame s).bitcnt = 0 ∧ (finishFrame s).presc = s.presc ∧
    (finishFrame s).clkEn = s.clkEn ∧ (finishFrame s).pinsRouted = s.pinsRouted ∧
    (finishFrame s).faults = s.faults ∧ (finishFrame s).refused = s.refused ∧
    (finishFrame s).cfg = s.cfg ∧ (finishFrame s).inputs = s.inputs := by
  rcases finishFrame_cases s with ⟨h, e⟩ | ⟨h, e⟩ <;> simp [e, h]

/-! ## Guards -/

theorem active_iff {s : State} :
    active s = true ↔ s.clkEn = true ∧ spe s.cfg s.cr = true ∧ mstr s.cfg s.cr = true ∧
      ssm s.cfg s.cr = true ∧ ssi s.cfg s.cr = true := by
  simp [active, and_assoc]

theorem quiet_iff {s : State} : quiet s = true ↔ s.txbFull = false ∧ s.phase = .idle := by
  simp [quiet]

theorem loadEnabled_iff {s : State} :
    loadEnabled s = true ↔ active s = true ∧ s.phase = .idle ∧ s.txbFull = true := by
  simp [loadEnabled, and_assoc]

theorem shiftEnabled_iff {s : State} :
    shiftEnabled s = true ↔ s.clkEn = true ∧ s.phase = .shift ∧ s.bitcnt.toNat < 8 := by
  simp [shiftEnabled, and_assoc, BitVec.lt_def]

theorem completeEnabled_iff {s : State} :
    completeEnabled s = true ↔ s.clkEn = true ∧ s.phase = .shift ∧ s.bitcnt = 8 := by
  simp [completeEnabled, and_assoc]

theorem frameEnabled_iff {s : State} :
    frameEnabled s = true ↔ s.clkEn = true ∧ s.phase = .shift ∧ s.bitcnt = 0 := by
  simp [frameEnabled, and_assoc]

/-! ## What each step answers -/

theorem execRdCr_next {z : AccessSize} {s t : State} (h : execRdCr z s = .next t) :
    s.clkEn = true ∧ z.admitted = true ∧
      t = s.withOutput (.readValue (busOfHalf s.cfg s.cr)) := by
  obtain ⟨hc, hz, h⟩ := hostStep_next.1 h
  exact ⟨hc, hz, ((returning_next ..).1 h).symm⟩

theorem execWrCr_next {z : AccessSize} {v : Word} {s t : State} (h : execWrCr z v s = .next t) :
    s.clkEn = true ∧ z.admitted = true ∧ hasReservedCrBit s.cfg (crOperand s.cfg v) = false ∧
      s.phase = .idle ∧
      (spe s.cfg (crOperand s.cfg v) = true → changesMode s.cfg s.cr (crOperand s.cfg v) = false ∧
        mstr s.cfg (crOperand s.cfg v) = true ∧ ssm s.cfg (crOperand s.cfg v) = true ∧
        ssi s.cfg (crOperand s.cfg v) = true) ∧
      t = (s.setCr (crOperand s.cfg v)).withOutput .nothing := by
  obtain ⟨hc, hz, h⟩ := hostStep_next.1 h
  obtain ⟨h1, h2, h3, h4⟩ := writeCr_next.1 h
  exact ⟨hc, hz, h1, h2, h3, h4.symm⟩

theorem execRdSr_next {z : AccessSize} {s t : State} (h : execRdSr z s = .next t) :
    s.clkEn = true ∧ z.admitted = true ∧
      t = s.withOutput (.readValue (busOfHalf s.cfg (srView s))) := by
  obtain ⟨hc, hz, h⟩ := hostStep_next.1 h
  exact ⟨hc, hz, ((returning_next ..).1 h).symm⟩

theorem execWrSr_next {z : AccessSize} {v : Word} {s t : State} (h : execWrSr z v s = .next t) :
    s.clkEn = true ∧ z.admitted = true ∧ t = s.withOutput .nothing := by
  obtain ⟨hc, hz, h⟩ := hostStep_next.1 h
  exact ⟨hc, hz, ((done_next ..).1 h).symm⟩

theorem execRdDr_next {z : AccessSize} {s t : State} (h : execRdDr z s = .next t) :
    s.clkEn = true ∧ z.admitted = true ∧
      ((s.rxbFull = true ∧ t = s.clearRxne.withOutput (.readValue (busOfByte s.cfg s.rxb))) ∨
       (s.rxbFull = false ∧ t = (s.clearRxne.drawn 1).withOutput
          (.readValue (busOfByte s.cfg (Config.freeByte s.draws))))) := by
  obtain ⟨hc, hz, h⟩ := hostStep_next.1 h
  refine ⟨hc, hz, (readDr_next.1 h).imp ?_ ?_⟩ <;> exact fun h => ⟨h.1, h.2.symm⟩

theorem execWrDr_next {z : AccessSize} {v : Word} {s t : State} (h : execWrDr z v s = .next t) :
    s.clkEn = true ∧ z.admitted = true ∧ s.txbFull = false ∧
      t = (s.stage (drOperand s.cfg v)).withOutput .nothing := by
  obtain ⟨hc, hz, h⟩ := hostStep_next.1 h
  obtain ⟨h1, h2⟩ := writeDr_next.1 h
  exact ⟨hc, hz, h1, h2.symm⟩

theorem execHwLoad_next {s t : State} (h : execHwLoad s = .next t) :
    loadEnabled s = true ∧ t = s.loadFrame.withOutput .nothing := by
  unfold execHwLoad at h
  split at h <;> simp_all

theorem execHwShift_next {m : Bool} {s t : State} (h : execHwShift m s = .next t) :
    shiftEnabled s = true ∧
      t = (s.shiftBit m).withOutput (toPeer s (.peerBit (lineBit s.cfg s.shr))) := by
  unfold execHwShift at h
  split at h <;> simp_all

theorem execHwComplete_next {s t : State} (h : execHwComplete s = .next t) :
    completeEnabled s = true ∧ t = (finishFrame s).withOutput .nothing := by
  unfold execHwComplete at h
  split at h <;> simp_all

theorem execHwFrame_next {r : Byte} {s t : State} (h : execHwFrame r s = .next t) :
    frameEnabled s = true ∧
      t = (finishFrame (s.fillFrame r)).withOutput (toPeer s (.peerByte s.shr)) := by
  unfold execHwFrame at h
  split at h <;> simp_all

theorem execEnvReset_next {s t : State} (h : execEnvReset s = .next t) :
    t = s.resetRegisters.withOutput .nothing := ((done_next ..).1 h).symm

theorem execEnvClkOn_next {s t : State} (h : execEnvClkOn s = .next t) :
    t = s.clockOn.withOutput .nothing := ((done_next ..).1 h).symm

theorem execEnvPins_next {s t : State} (h : execEnvPins s = .next t) :
    t = s.routePins.withOutput .nothing := ((done_next ..).1 h).symm

/-! ## What a step of the machine is -/

/-- The step that SEQ takes by itself is one of the three, in its guard. -/
theorem seqChoice_some {s : State} {m : Bool} {i : Instr} (h : seqChoice s m = some i) :
    (i = .hwLoad ∧ loadEnabled s = true) ∨ (i = .hwShift m ∧ shiftEnabled s = true) ∨
      (i = .hwComplete ∧ completeEnabled s = true) := by
  unfold seqChoice at h
  split at h <;> (try split at h) <;> (try split at h) <;> simp_all

/-- A step that answers a next state: a pending record's step, or the machine alone, where SEQ
takes a step of its own or nothing happens. -/
theorem step_next {s t : State} (h : step s = .next t) :
    (∃ r rest i, s.inputs = r :: rest ∧ decode s.cfg r = .instr i ∧
      exec i (s.withInputs rest) = .next t) ∨
    (∃ m i, s.inputs = [] ∧ seqChoice s m = some i ∧ exec i (s.drawn 2) = .next t) ∨
    (s.inputs = [] ∧ t = (s.drawn 2).withOutput .nothing) := by
  unfold step nextStep at h
  split at h
  · rename_i r rest hin
    refine .inl ⟨r, rest, ?_⟩
    unfold takeRecord at h
    split at h
    · rename_i i hd
      exact ⟨i, hin, hd, h⟩
    · have := (hostStep_next.1 h).2.2
      simp at this
    · simp at h
  · rename_i hin
    refine .inr ?_
    unfold stepAlone at h
    split at h
    · split at h
      · rename_i i hi
        exact .inl ⟨_, i, hin, hi, h⟩
      · exact .inr ⟨hin, ((done_next ..).1 h).symm⟩
    · exact .inr ⟨hin, ((done_next ..).1 h).symm⟩

/-! ## Steps taken in order -/

@[simp] theorem execTrace_nil (s : State) : execTrace [] s = .next ([], s) := rfl

/-- A list of steps is taken when its first is and then the rest are. -/
theorem execTrace_cons_next {i : Instr} {l : List Instr} {s t u : State} {os : List Output}
    (h : exec i s = .next t) (hl : execTrace l t = .next (os, u)) :
    execTrace (i :: l) s = .next (t.output :: os, u) := by
  simp only [execTrace, h, hl]

end Sys2Proof.Machine
end

