-- ==== Sys2Proof/Laws/Driver.lean ====
section
/-! SUPPORT. What the HOST's own move can do, in a call and in a program, and a run of a call as moves
(spec/43_driver_sequences.md, spec/00_scope.md rule R14). -/

namespace Sys2Proof.Machine

/-- The HOST's move: it stands still where it has no step of its own, or that step answers a next
state. -/
theorem hostStepFrom_next {α : Type} {p : α} {own : Option Instr} {after : Config → Word → α}
    {s : State} {q : α × State} :
    hostStepFrom p own after s = .next q ↔
      (own = none ∧ q = (p, s)) ∨
      ∃ i t, own = some i ∧ exec i s = .next t ∧ q = (after t.cfg t.output.value, t) := by
  unfold hostStepFrom
  split
  · simp [eq_comm]
  · split <;> rename_i h <;> simp [h, eq_comm]

/-- A clocked read of SR with 4 bytes, the step of every poll. -/
theorem execRdSr_word {s : State} (h : s.clkEn = true) :
    exec (.rdSr .word) s = .next (s.withOutput (.readValue (busOfHalf s.cfg (srView s)))) :=
  (hostStep_pass (record := encode s.cfg (.rdSr .word)) h rfl).trans rfl

/-- A program's move: the beginning of its next operation, or a step of the one it is in. -/
theorem HostProgram.move_next {h g : HostProgram} {s t : State} :
    h.move s = .next (g, t) ↔
      (h.stage.hasReturned = true ∧ t = s ∧
        ((h.rest = [] ∧ g = h) ∨
          ∃ o os, h.rest = o :: os ∧ g = { stage := o.start s.cfg, rest := os })) ∨
      (h.stage.hasReturned = false ∧ ∃ i, h.stage.nextInstr = some i ∧ exec i s = .next t ∧
        g = { stage := h.stage.after t.cfg t.output.value, rest := h.rest }) := by
  unfold HostProgram.move
  cases hr : h.stage.hasReturned with
  | true => cases hl : h.rest <;> simp <;> constructor <;> rintro ⟨rfl, rfl⟩ <;> exact ⟨rfl, rfl⟩
  | false =>
    simp only [Bool.false_eq_true, if_false, false_and, false_or, true_and, hostStepFrom_next,
      Prod.mk.injEq]
    constructor
    · rintro (⟨hn, -⟩ | ⟨i, u, hi, he, rfl, rfl⟩)
      · simp [Stage.hasReturned, hn] at hr
      · exact ⟨i, hi, he, rfl⟩
    · rintro ⟨i, hi, he, rfl⟩
      exact .inr ⟨i, t, hi, he, rfl, rfl⟩

end Sys2Proof.Machine

namespace Sys2Proof.Safety

open Sys2Proof.Machine

/-- Where more ENV steps may come, every move is still one. -/
theorem Interleaved.mono {α : Type} {may may' : Instr → Prop}
    {host : α → State → Host.Outcome (α × State) Fault Refusal} {p q : α × State}
    (hm : ∀ i, may i → may' i) (h : Interleaved may host p q) : Interleaved may' host p q := by
  cases h with
  | host h => exact .host h
  | seq h1 h2 => exact .seq h1 h2
  | env h1 h2 h3 => exact .env h1 (hm _ h2) h3

/-- A move is the HOST's own, or a step of another agent, which leaves the HOST where it stands. -/
theorem Interleaved.place {α : Type} {may : Instr → Prop}
    {host : α → State → Host.Outcome (α × State) Fault Refusal} {p : α} {s : State} {q : α × State}
    (h : Interleaved may host (p, s) q) :
    host p s = .next q ∨
      ∃ i, (i.agent = .seq ∨ i.agent = .env ∧ may i) ∧ q.1 = p ∧ exec i s = .next q.2 := by
  cases h with
  | host h => exact .inl h
  | seq h1 h2 => exact .inr ⟨_, .inl h1, rfl, h2⟩
  | env h1 h2 h3 => exact .inr ⟨_, .inr ⟨h1, h2⟩, rfl, h3⟩

/-- A run of a call is a sequence of its moves. -/
theorem CallRun.moves {may : Instr → Prop} {c : Call} {l : List (Instr × Output)}
    {q r : Position × State} (h : CallRun may c l q r) :
    Relation.ReflTransGen (Interleaved may (hostMove c)) q r := by
  induction h with
  | here => exact .refl
  | host h _ ih => exact .head (.host h) ih
  | seq h1 h2 _ ih => exact .head (.seq h1 h2) ih
  | env h1 h2 h3 _ ih => exact .head (.env h1 h2 h3) ih

end Sys2Proof.Safety
end

