-- ==== Sys2Proof/Laws/Encode.lean ====
section
/-! SUPPORT. Every field of an encoded record reads back as it was put in, and an access size
survives its two bits. -/

namespace Sys2Proof

@[simp] theorem AccessSize.ofBits_toBits (z : AccessSize) : AccessSize.ofBits z.toBits = z := by
  cases z <;> rfl

@[simp] theorem AccessSize.toBits_ofBits (b : BitVec 2) : (AccessSize.ofBits b).toBits = b := by
  revert b; decide

/-- Bit j of a format H record, field by field. -/
theorem encodeAccess_getLsbD (a : Access) (j : Nat) (h : j < 48) :
    (encodeAccess a).getLsbD j =
      if j < 32 then a.wdata.getLsbD j
      else if j < 42 then a.offset.getLsbD (j - 32)
      else if j = 42 then false
      else if j < 45 then a.size.toBits.getLsbD (j - 43)
      else if j = 45 then a.we else false := by
  have out1 : ∀ k, 1 ≤ k → (BitVec.ofBool a.we).getLsbD k = false :=
    fun k hk => BitVec.getLsbD_of_ge _ _ hk
  have out2 : ∀ k, 2 ≤ k → a.size.toBits.getLsbD k = false :=
    fun k hk => BitVec.getLsbD_of_ge _ _ hk
  have out10 : ∀ k, 10 ≤ k → a.offset.getLsbD k = false :=
    fun k hk => BitVec.getLsbD_of_ge _ _ hk
  have out32 : ∀ k, 32 ≤ k → a.wdata.getLsbD k = false :=
    fun k hk => BitVec.getLsbD_of_ge _ _ hk
  simp only [encodeAccess, BitVec.getLsbD_or, BitVec.getLsbD_shiftLeft, BitVec.getLsbD_setWidth]
  have s1 : j - 45 < 48 := by omega
  have s2 : j - 43 < 48 := by omega
  have s3 : j - 32 < 48 := by omega
  simp only [h, s1, s2, s3, decide_true, Bool.true_and]
  split
  · have a1 : j < 45 := by omega
    have a2 : j < 43 := by omega
    simp only [*, decide_true, Bool.not_true, Bool.false_and, Bool.false_or]
  · rename_i n1
    rw [out32 j (by omega)]
    split
    · have a1 : j < 45 := by omega
      have a2 : j < 43 := by omega
      simp only [*, decide_true, decide_false, Bool.not_true, Bool.not_false, Bool.false_and,
        Bool.true_and, Bool.false_or, Bool.or_false]
    · rw [out10 (j - 32) (by omega)]
      split
      · subst j; simp
      · split
        · rename_i a1
          have a2 : ¬ j < 43 := by omega
          simp only [*, decide_true, decide_false, Bool.not_true, Bool.not_false, Bool.false_and,
            Bool.true_and, Bool.false_or, Bool.or_false, Bool.and_false]
        · rw [out2 (j - 43) (by omega)]
          split
          · subst j; simp
          · rw [out1 (j - 45) (by omega)]; simp

/-- Bit j of a format S record, field by field. -/
theorem encodeSeq_getLsbD (k : BitVec 2) (d : Byte) (j : Nat) (h : j < 48) :
    (encodeSeq k d).getLsbD j =
      if j < 8 then d.getLsbD j
      else if j < 44 then false
      else if j < 46 then k.getLsbD (j - 44) else decide (j = 46) := by
  have out2 : ∀ i, 2 ≤ i → k.getLsbD i = false := fun i hi => BitVec.getLsbD_of_ge _ _ hi
  have out8 : ∀ i, 8 ≤ i → d.getLsbD i = false := fun i hi => BitVec.getLsbD_of_ge _ _ hi
  simp only [encodeSeq, BitVec.getLsbD_or, BitVec.getLsbD_shiftLeft, BitVec.getLsbD_setWidth,
    BitVec.getLsbD_one]
  have s1 : j - 44 < 48 := by omega
  simp only [h, s1, decide_true, Bool.true_and]
  split
  · have a1 : j < 44 := by omega
    have a2 : j < 46 := by omega
    simp [*]
  · rw [out8 j (by omega)]
    split
    · have a2 : j < 46 := by omega
      simp [*]
    · split
      · simp [*]
      · rw [out2 (j - 44) (by omega)]
        have : j = 46 ∨ j = 47 := by omega
        rcases this with rfl | rfl <;> simp

/-- Bit j of a format E record, field by field. -/
theorem encodeEnv_getLsbD (k : BitVec 2) (j : Nat) (h : j < 48) :
    (encodeEnv k).getLsbD j =
      if j < 44 then false
      else if j < 46 then k.getLsbD (j - 44) else decide (j = 47) := by
  have out2 : ∀ i, 2 ≤ i → k.getLsbD i = false := fun i hi => BitVec.getLsbD_of_ge _ _ hi
  simp only [encodeEnv, BitVec.getLsbD_or, BitVec.getLsbD_shiftLeft, BitVec.getLsbD_setWidth]
  have s1 : j - 44 < 48 := by omega
  simp only [h, s1, decide_true, Bool.true_and]
  split
  · have a1 : j < 46 := by omega
    simp [*]
  · split
    · simp [*]
    · rw [out2 (j - 44) (by omega)]
      have : j = 46 ∨ j = 47 := by omega
      rcases this with rfl | rfl <;> simp

/-! ## Fields of an encoded record -/

theorem encodeAccess_agent (a : Access) : (encodeAccess a).extractLsb' 46 2 = 0b00#2 := by
  apply BitVec.eq_of_getLsbD_eq
  intro j hj
  rw [BitVec.getLsbD_extractLsb', encodeAccess_getLsbD _ _ (by omega)]
  have : j = 0 ∨ j = 1 := by omega
  rcases this with rfl | rfl <;> simp

theorem encodeAccess_we (a : Access) : (encodeAccess a).getLsbD 45 = a.we := by
  rw [encodeAccess_getLsbD _ _ (by omega)]; simp

theorem encodeAccess_zero (a : Access) : (encodeAccess a).getLsbD 42 = false := by
  rw [encodeAccess_getLsbD _ _ (by omega)]; simp

theorem encodeAccess_size (a : Access) : (encodeAccess a).extractLsb' 43 2 = a.size.toBits := by
  apply BitVec.eq_of_getLsbD_eq
  intro j hj
  rw [BitVec.getLsbD_extractLsb', encodeAccess_getLsbD _ _ (by omega)]
  have : j = 0 ∨ j = 1 := by omega
  rcases this with rfl | rfl <;> simp

theorem encodeAccess_offset (a : Access) : (encodeAccess a).extractLsb' 32 10 = a.offset := by
  apply BitVec.eq_of_getLsbD_eq
  intro j hj
  rw [BitVec.getLsbD_extractLsb', encodeAccess_getLsbD _ _ (by omega)]
  have h1 : ¬ 32 + j < 32 := by omega
  have h2 : 32 + j < 42 := by omega
  simp only [h1, h2, hj, if_true, if_false, decide_true, Bool.true_and, Nat.add_sub_cancel_left]

theorem encodeAccess_wdata (a : Access) : (encodeAccess a).extractLsb' 0 32 = a.wdata := by
  apply BitVec.eq_of_getLsbD_eq
  intro j hj
  rw [BitVec.getLsbD_extractLsb', encodeAccess_getLsbD _ _ (by omega)]
  simp only [hj, if_true, decide_true, Bool.true_and, Nat.zero_add]

theorem encodeSeq_agent (k : BitVec 2) (d : Byte) :
    (encodeSeq k d).extractLsb' 46 2 = 0b01#2 := by
  apply BitVec.eq_of_getLsbD_eq
  intro j hj
  rw [BitVec.getLsbD_extractLsb', encodeSeq_getLsbD _ _ _ (by omega)]
  have : j = 0 ∨ j = 1 := by omega
  rcases this with rfl | rfl <;> simp

theorem encodeSeq_kind (k : BitVec 2) (d : Byte) : (encodeSeq k d).extractLsb' 44 2 = k := by
  apply BitVec.eq_of_getLsbD_eq
  intro j hj
  rw [BitVec.getLsbD_extractLsb', encodeSeq_getLsbD _ _ _ (by omega)]
  have : j = 0 ∨ j = 1 := by omega
  rcases this with rfl | rfl <;> simp

theorem encodeSeq_zero (k : BitVec 2) (d : Byte) : (encodeSeq k d).extractLsb' 8 36 = 0 := by
  apply BitVec.eq_of_getLsbD_eq
  intro j hj
  rw [BitVec.getLsbD_extractLsb', encodeSeq_getLsbD _ _ _ (by omega)]
  have h1 : ¬ 8 + j < 8 := by omega
  have h2 : 8 + j < 44 := by omega
  simp [h1, h2]

theorem encodeSeq_data (k : BitVec 2) (d : Byte) : (encodeSeq k d).extractLsb' 0 8 = d := by
  apply BitVec.eq_of_getLsbD_eq
  intro j hj
  rw [BitVec.getLsbD_extractLsb', encodeSeq_getLsbD _ _ _ (by omega)]
  simp only [hj, if_true, decide_true, Bool.true_and, Nat.zero_add]

theorem encodeEnv_agent (k : BitVec 2) : (encodeEnv k).extractLsb' 46 2 = 0b10#2 := by
  revert k; decide

theorem encodeEnv_kind (k : BitVec 2) : (encodeEnv k).extractLsb' 44 2 = k := by
  revert k; decide

theorem encodeEnv_zero (k : BitVec 2) : (encodeEnv k).extractLsb' 0 44 = 0 := by
  revert k; decide

/-! ## A record is its fields -/

/-- Two records with the same fields of format H are the same. -/
theorem record_ext_host {r q : Record} (h1 : r.extractLsb' 46 2 = q.extractLsb' 46 2)
    (h2 : r.getLsbD 45 = q.getLsbD 45) (h3 : r.extractLsb' 43 2 = q.extractLsb' 43 2)
    (h4 : r.getLsbD 42 = q.getLsbD 42) (h5 : r.extractLsb' 32 10 = q.extractLsb' 32 10)
    (h6 : r.extractLsb' 0 32 = q.extractLsb' 0 32) : r = q := by
  apply BitVec.eq_of_getLsbD_eq
  intro j hj
  have part : ∀ (p w : Nat), r.extractLsb' p w = q.extractLsb' p w → p ≤ j → j < p + w →
      r.getLsbD j = q.getLsbD j := by
    intro p w h hp hw
    have := congrArg (fun v => BitVec.getLsbD v (j - p)) h
    simpa [BitVec.getLsbD_extractLsb', show j - p < w by omega, show p + (j - p) = j by omega]
      using this
  by_cases a : j < 32
  · exact part 0 32 h6 (by omega) (by omega)
  by_cases b : j < 42
  · exact part 32 10 h5 (by omega) (by omega)
  by_cases c : j = 42
  · subst c; exact h4
  by_cases d : j < 45
  · exact part 43 2 h3 (by omega) (by omega)
  by_cases e : j = 45
  · subst e; exact h2
  · exact part 46 2 h1 (by omega) (by omega)

/-- Two records with the same agent, kind and lower bits are the same. -/
theorem record_ext_kind {r q : Record} (h1 : r.extractLsb' 46 2 = q.extractLsb' 46 2)
    (h2 : r.extractLsb' 44 2 = q.extractLsb' 44 2) (h3 : r.extractLsb' 0 44 = q.extractLsb' 0 44) :
    r = q := by
  apply BitVec.eq_of_getLsbD_eq
  intro j hj
  have part : ∀ (p w : Nat), r.extractLsb' p w = q.extractLsb' p w → p ≤ j → j < p + w →
      r.getLsbD j = q.getLsbD j := by
    intro p w h hp hw
    have := congrArg (fun v => BitVec.getLsbD v (j - p)) h
    simpa [BitVec.getLsbD_extractLsb', show j - p < w by omega, show p + (j - p) = j by omega]
      using this
  by_cases a : j < 44
  · exact part 0 44 h3 (by omega) (by omega)
  by_cases b : j < 46
  · exact part 44 2 h2 (by omega) (by omega)
  · exact part 46 2 h1 (by omega) (by omega)

/-! ## Decoding an encoded record, format by format -/

/-- A format H record decodes as the access it was made from. -/
theorem decode_encodeAccess (c : Config) (a : Access) :
    decode c (encodeAccess a) =
      if !a.we && a.wdata != 0 then .invalid .readWithData
      else match decodeAccess c a with
        | some i => .instr i
        | none => .noRegister a := by
  cases a
  simp only [decode, encodeAccess_agent, decodeHost, encodeAccess_we, encodeAccess_zero,
    encodeAccess_size, encodeAccess_offset, encodeAccess_wdata, AccessSize.ofBits_toBits,
    if_true, Bool.false_eq_true, if_false] <;> rfl

/-- A format S record decodes by its kind and data. -/
theorem decode_encodeSeq (c : Config) (k : BitVec 2) (d : Byte) :
    decode c (encodeSeq k d) =
      if k = 0b00#2 then if d = 0 then .instr .hwLoad else .invalid .loadCompleteData
      else if k = 0b01#2 then
        if d.extractLsb' 1 7 = 0 then .instr (.hwShift (d.getLsbD 0)) else .invalid .shiftDataBits
      else if k = 0b10#2 then if d = 0 then .instr .hwComplete else .invalid .loadCompleteData
      else .instr (.hwFrame d) := by
  have h : ¬ (0b01#2 = 0b00#2) := by decide
  simp only [decode, encodeSeq_agent, decodeSeq, encodeSeq_kind, encodeSeq_zero, encodeSeq_data,
    h, ne_eq, not_true_eq_false, if_true, if_false]

/-- A format E record decodes by its kind. -/
theorem decode_encodeEnv (c : Config) (k : BitVec 2) :
    decode c (encodeEnv k) =
      if k = 0b11#2 then .invalid .envReservedKind
      else if k = 0b00#2 then .instr .envReset
      else if k = 0b01#2 then .instr .envClkOn
      else .instr .envPins := by
  have h1 : ¬ (0b10#2 = 0b00#2) := by decide
  have h2 : ¬ (0b10#2 = 0b01#2) := by decide
  simp only [decode, encodeEnv_agent, decodeEnv, encodeEnv_kind, encodeEnv_zero, h1, h2, ne_eq,
    not_true_eq_false, if_true, if_false]

end Sys2Proof
end

