-- ==== Sys2Proof/Laws/PerInstr.lean ====
section
/-! SUPPORT. Families of statements made once per step, about steps as syntax. -/

namespace Sys2Proof.Laws

/-! Family AgentBits: bits 47:46 of a step's record name its agent (spec/30_encoding.md rule
R90). -/

/-- 30_encoding.md R90. -/
def AgentBits.code : Agent → BitVec 2
  | .host => 0b00#2
  | .seq => 0b01#2
  | .env => 0b10#2

/-- The record of the step, under any offsets, carries the code of the step's agent. -/
def AgentBits.Statement (i : Instr) : Prop :=
  ∀ c, (encode c i).extractLsb' 46 2 = AgentBits.code i.agent

theorem AgentBits.rdCr (z : AccessSize) : AgentBits.Statement (.rdCr z) :=
  fun _ => encodeAccess_agent _

theorem AgentBits.wrCr (z : AccessSize) (v : Word) : AgentBits.Statement (.wrCr z v) :=
  fun _ => encodeAccess_agent _

theorem AgentBits.rdSr (z : AccessSize) : AgentBits.Statement (.rdSr z) :=
  fun _ => encodeAccess_agent _

theorem AgentBits.wrSr (z : AccessSize) (v : Word) : AgentBits.Statement (.wrSr z v) :=
  fun _ => encodeAccess_agent _

theorem AgentBits.rdDr (z : AccessSize) : AgentBits.Statement (.rdDr z) :=
  fun _ => encodeAccess_agent _

theorem AgentBits.wrDr (z : AccessSize) (v : Word) : AgentBits.Statement (.wrDr z v) :=
  fun _ => encodeAccess_agent _

theorem AgentBits.hwLoad : AgentBits.Statement .hwLoad := fun _ => encodeSeq_agent ..

theorem AgentBits.hwShift (m : Bool) : AgentBits.Statement (.hwShift m) :=
  fun _ => encodeSeq_agent ..

theorem AgentBits.hwComplete : AgentBits.Statement .hwComplete := fun _ => encodeSeq_agent ..

theorem AgentBits.hwFrame (r : Byte) : AgentBits.Statement (.hwFrame r) :=
  fun _ => encodeSeq_agent ..

theorem AgentBits.envReset : AgentBits.Statement .envReset := fun _ => encodeEnv_agent _

theorem AgentBits.envClkOn : AgentBits.Statement .envClkOn := fun _ => encodeEnv_agent _

theorem AgentBits.envPins : AgentBits.Statement .envPins := fun _ => encodeEnv_agent _

end Sys2Proof.Laws
end

