-- ==== Sys2Proof/Tests/Slice0.lean ====
section
/-! SUPPORT. Tests whose expected results are the spec's own (spec/95_test_vectors.md, the tables
named in each comment), and for every obligation with hypotheses a witness that meets them, clause by
clause. -/

namespace Sys2Proof.Tests

open Sys2Proof Sys2Proof.Machine Sys2Proof.Safety

/-! ## Small states, and what a step answered -/

/-- The reset state with the clock on. -/
def on : State := { State.reset with clkEn := true }

/-- ACTIVE and QUIET, pins routed, RXNE = 0: CR as initialize(1) leaves it. -/
def ready : State := { on with cr := 0x034C, pinsRouted := true }

/-- A byte staged. -/
def staged (b : Byte) : State := { ready with txb := b, txbFull := true }

/-- A frame in the shift register, k bits done. -/
def inFrame (shr : Byte) (k : BitVec 4) : State :=
  { ready with shr := shr, phase := .shift, bitcnt := k, mosi := shr.getLsbD 7 }

/-- An unread byte. -/
def unread (s : State) (b : Byte) : State := { s with rxb := b, rxbFull := true }

/-- Another layout than the default one: a smaller window, registers of 12 bits on a bus of 16, a
2-bit divisor field, a clock that rests high, sampled on the second edge, least significant bit
first. -/
def narrowLayout : Config :=
  { Config.default with
    spiBase := 0x1000, aw := 5, offCr := 0x1C, offSr := 0x14, offDr := 0x10, regw := 12, busw := 16,
    crMstr := 0, crBrLo := 10, brw := 2, crSpe := 9, crSsi := 1, crSsm := 5, srRxne := 11,
    srTxe := 0, srBsy := 4, div := [2, 4, 8, 16], cpol := true, cpha := true, msbFirst := false }

/-- The state with the parameters of `narrowLayout`. -/
def narrow (s : State) : State := { s with cfg := narrowLayout }

/-- The state with the parameter RX_OVERRUN at KEEP_OLD. -/
def keepOld (s : State) : State := { s with cfg := { s.cfg with rxOverrun := .keepOld } }

def nextOf : Result → Option State
  | .next t => some t
  | .fault _ => none
  | .refused _ => none

def faultOf : Result → Option Fault
  | .next _ => none
  | .fault f => some f
  | .refused _ => none

def refusalOf : Result → Option Refusal
  | .next _ => none
  | .fault _ => none
  | .refused r => some r

/-- What a read returned, with SR afterwards. -/
def readOf (r : Result) : Option (Output × Half) := (nextOf r).map fun t => (t.output, srView t)

/-! ## Records (V-ENC; the fields are written out as agent, we, size, bit 42, offset, data) -/

theorem test_decode_rdCr :
    decode .default (0b00#2 ++ 0b0#1 ++ 0b10#2 ++ 0b0#1 ++ 0b0000000000#10 ++ 0x00000000#32) =
      .instr (.rdCr .word) ∧ decode .default 0x0800_0000_0000 = .instr (.rdCr .half) := by decide

theorem test_decode_wrCr :
    decode .default (0b00#2 ++ 0b1#1 ++ 0b10#2 ++ 0b0#1 ++ 0b0000000000#10 ++ 0x0000030C#32) =
      .instr (.wrCr .word 0x030C) ∧
    decode .default 0x2800_0000_030C = .instr (.wrCr .half 0x030C) ∧
    decode .default 0x3000_FFFF_030C = .instr (.wrCr .word 0xFFFF030C) := by decide

theorem test_decode_rdSr :
    decode .default (0b00#2 ++ 0b0#1 ++ 0b01#2 ++ 0b0#1 ++ 0b0000001000#10 ++ 0x00000000#32) =
      .instr (.rdSr .half) ∧ decode .default 0x1008_0000_0000 = .instr (.rdSr .word) := by decide

theorem test_decode_wrSr :
    decode .default (0b00#2 ++ 0b1#1 ++ 0b10#2 ++ 0b0#1 ++ 0b0000001000#10 ++ 0x00000000#32) =
      .instr (.wrSr .word 0) ∧ decode .default 0x3008_0000_0000 = .instr (.wrSr .word 0) := by decide

theorem test_decode_rdDr :
    decode .default (0b00#2 ++ 0b0#1 ++ 0b01#2 ++ 0b0#1 ++ 0b0000001100#10 ++ 0x00000000#32) =
      .instr (.rdDr .half) ∧ decode .default 0x100C_0000_0000 = .instr (.rdDr .word) := by decide

theorem test_decode_wrDr :
    decode .default (0b00#2 ++ 0b1#1 ++ 0b10#2 ++ 0b0#1 ++ 0b0000001100#10 ++ 0x000000A5#32) =
      .instr (.wrDr .word 0xA5) ∧
    decode .default 0x300C_0000_01A5 = .instr (.wrDr .word 0x1A5) ∧
    decode .default 0x200C_0000_00A5 = .instr (.wrDr .byte 0xA5) := by decide

/-- Format S: agent, kind, zero, data. -/
theorem test_decode_hwLoad :
    decode .default (0b01#2 ++ 0b00#2 ++ 0#36 ++ 0x00#8) = .instr .hwLoad := by decide

theorem test_decode_hwShift :
    decode .default (0b01#2 ++ 0b01#2 ++ 0#36 ++ 0x01#8) = .instr (.hwShift true) ∧
    decode .default 0x5000_0000_0000 = .instr (.hwShift false) := by decide

theorem test_decode_hwComplete :
    decode .default (0b01#2 ++ 0b10#2 ++ 0#36 ++ 0x00#8) = .instr .hwComplete := by decide

theorem test_decode_hwFrame :
    decode .default (0b01#2 ++ 0b11#2 ++ 0#36 ++ 0xA5#8) = .instr (.hwFrame 0xA5) := by decide

/-- Format E: agent, kind, zero. -/
theorem test_decode_envReset : decode .default (0b10#2 ++ 0b00#2 ++ 0#44) = .instr .envReset := by
  decide

theorem test_decode_envClkOn : decode .default (0b10#2 ++ 0b01#2 ++ 0#44) = .instr .envClkOn := by
  decide

theorem test_decode_envPins : decode .default (0b10#2 ++ 0b10#2 ++ 0#44) = .instr .envPins := by
  decide

/-- V-ENC: records that hit no register, and invalid records. -/
theorem test_decode_rejects :
    decode .default 0x3010_0000_0000 =
      .noRegister { we := true, size := .word, offset := 0x10, wdata := 0 } ∧
    decode .default 0x1808_0000_0000 = .instr (.rdSr .reserved) ∧
    decode .default 0x1408_0000_0000 = .invalid .hostBit42 ∧
    decode .default 0x5000_0000_0002 = .invalid .shiftDataBits ∧
    decode .default 0x4000_0000_0001 = .invalid .loadCompleteData ∧
    decode .default 0xB000_0000_0000 = .invalid .envReservedKind ∧
    decode .default 0x8000_0000_0001 = .invalid .envNonzeroBits := by decide

/-- R106, R100: the records of steps, encoded. -/
theorem test_encode :
    encode .default (.wrCr .word 0x030C) = 0x3000_0000_030C ∧
    encode .default (.rdDr .half) = 0x080C_0000_0000 ∧
    encode .default (.hwShift true) = 0x5000_0000_0001 ∧
    encode .default (.hwFrame 0xA5) = 0x7000_0000_00A5 ∧
    encode .default .envPins = 0xA000_0000_0000 := by decide

/-- opcode_table.json: the thirteen rows, no two of which a record can select at once. -/
theorem test_rows_disjoint :
    [Instr.rdCr .word, .wrCr .word 0, .rdSr .word, .wrSr .word 0, .rdDr .word, .wrDr .word 0,
      .hwLoad, .hwShift true, .hwComplete, .hwFrame 0, .envReset, .envClkOn, .envPins].Pairwise
      (fun i j => (tableRow i).1 &&& (tableRow j).2 ≠ (tableRow j).1 &&& (tableRow i).2) := by decide

/-- The host's numbering of a table word: row WR_DR with size 0b00, row HW_FRAME. -/
theorem test_tableWord :
    decodeTableWord 48 0x200C000000A5 = some (.wrDr .byte 0xA5) ∧
    decodeTableWord 48 0x7000000000A5 = some (.hwFrame 0xA5) ∧
    decodeTableWord 48 0xC00000000000 = none := by decide

/-! ## Well-formedness: R64, an access of 1 byte or of the reserved size is not admitted -/

theorem test_illFormed_rdCr : (Instr.rdCr .byte).wellFormed = false := by decide
theorem test_illFormed_wrCr : (Instr.wrCr .reserved 0x030C).wellFormed = false := by decide
theorem test_illFormed_rdSr : (Instr.rdSr .reserved).wellFormed = false := by decide
theorem test_illFormed_wrSr : (Instr.wrSr .byte 0).wellFormed = false := by decide
theorem test_illFormed_rdDr : (Instr.rdDr .byte).wellFormed = false := by decide
theorem test_illFormed_wrDr : (Instr.wrDr .byte 0xA5).wellFormed = false := by decide
theorem test_wellFormed :
    (Instr.rdCr .half).wellFormed = true ∧ (Instr.wrDr .word 0xA5).wellFormed = true ∧
    (Instr.hwFrame 0).wellFormed = true := by decide

/-! ## Steps -/

/-- V-ENV rows 1 to 3. -/
theorem test_unclocked :
    faultOf (exec (.rdSr .word) .reset) = some (.unclockedAccess 0x1008_0000_0000) ∧
    faultOf (exec (.wrCr .word 0x030C) .reset) = some (.unclockedAccess 0x3000_0000_030C) ∧
    faultOf (takeRecord 0x0004_0000_0000 .reset) = some (.unclockedAccess 0x0004_0000_0000) := by
  decide

/-- V-ENV row 4. -/
theorem test_envClkOn_then_sr :
    (nextOf (exec .envClkOn .reset)).bind (fun t => readOf (exec (.rdSr .word) t)) =
      some (.readValue 0x0002, 0x0002) := by decide

/-- V-CR rows 1, 3, 21, 15. -/
theorem test_wrCr_accepted :
    (nextOf (exec (.wrCr .word 0x030C) on)).map State.cr = some 0x030C ∧
    (nextOf (exec (.wrCr .word 0x034C) { on with cr := 0x030C })).map active = some true ∧
    (nextOf (exec (.wrCr .word 0x030C) ready)).map active = some false ∧
    (nextOf (exec (.wrCr .half 0x037C) { on with cr := 0x033C })).map State.cr = some 0x037C := by
  decide

/-- V-CR rows 2, 6, 7, 8, 9, 10, 12, 17, 18, 19. -/
theorem test_wrCr_stops :
    faultOf (exec (.wrCr .word 0x034C) on) = some (.modeChangeWhileEnabled 0x0000 0x034C) ∧
    refusalOf (exec (.wrCr .word 0x0040) on) = some .slaveRole ∧
    refusalOf (exec (.wrCr .word 0x0340) { on with cr := 0x0300 }) = some .slaveRole ∧
    refusalOf (exec (.wrCr .word 0x0044) { on with cr := 0x0004 }) = some .hardwareNss ∧
    refusalOf (exec (.wrCr .word 0x0144) { on with cr := 0x0104 }) = some .hardwareNss ∧
    faultOf (exec (.wrCr .word 0x0244) { on with cr := 0x0204 }) = some (.modeFaultConfig 0x0244) ∧
    refusalOf (exec (.wrCr .word 0x0080) on) = some .reservedCrBits ∧
    faultOf (exec (.wrCr .word 0x030C) (inFrame 0 0)) =
      some (.configChangeWhileBusy 0x034C 0x030C) ∧
    faultOf (exec (.wrCr .word 0x034C) (inFrame 0 0)) =
      some (.configChangeWhileBusy 0x034C 0x034C) ∧
    refusalOf (exec (.wrCr .word 0x0080) (inFrame 0 0)) = some .reservedCrBits := by decide

/-- V-CR row 26. -/
theorem test_rdCr : readOf (exec (.rdCr .word) ready) = some (.readValue 0x0000034C, 0x0002) := by
  decide

/-- V-SR, the eight rows. -/
theorem test_sr_values :
    srView ready = 0x0002 ∧ srView (unread ready 0x22) = 0x0003 ∧
    srView (staged 0x11) = 0x0000 ∧ srView (unread (staged 0x11) 0x22) = 0x0001 ∧
    srView (inFrame 0x11 3) = 0x0082 ∧ srView (unread (inFrame 0x11 3) 0x22) = 0x0083 ∧
    srView { inFrame 0x11 3 with txbFull := true } = 0x0080 ∧
    srView { unread (inFrame 0x11 3) 0x22 with txbFull := true } = 0x0081 := by decide

/-- V-SR, the last line. -/
theorem test_wrSr :
    readOf (exec (.wrSr .word 0xFFFF) (unread ready 0x22)) = some (.nothing, 0x0003) := by decide

/-- V-DR rows 1, 3, 5. -/
theorem test_wrDr_accepted :
    (nextOf (exec (.wrDr .word 0xA5) ready)).map (fun t => (t.txb, srView t)) =
      some (0xA5, 0x0000) ∧
    (nextOf (exec (.wrDr .word 0xA5) (inFrame 0x11 3))).map srView = some 0x0080 ∧
    (nextOf (exec (.wrDr .word 0x1A5) ready)).map State.txb = some 0xA5 := by decide

/-- V-DR row 2. -/
theorem test_wrDr_full :
    faultOf (exec (.wrDr .word 0x5A) (staged 0xA5)) = some (.txOverwrite 0x5A 0xA5) := by decide

/-- V-DR rows 6 and 9. -/
theorem test_rdDr :
    readOf (exec (.rdDr .word) (unread ready 0xA5)) = some (.readValue 0x000000A5, 0x0002) ∧
    readOf (exec (.rdDr .word) (unread (inFrame 0 0) 0x22)) =
      some (.readValue 0x00000022, 0x0082) := by decide

/-- V-DR row 8: the read completes, with RXNE = 0 after it; its value is a draw. -/
theorem test_rdDr_early : (nextOf (exec (.rdDr .word) on)).map srView = some 0x0002 := by decide

/-- R173's example. -/
theorem test_hwLoad :
    (nextOf (exec .hwLoad (staged 0xA5))).map (fun t => (t.shr, t.mosi, srView t)) =
      some (0xA5, true, 0x0082) := by decide

/-- V-SEQ, the guards. -/
theorem test_seq_guards :
    nextOf (exec .hwLoad { staged 0x11 with cr := 0x030C }) = none ∧
    nextOf (exec .hwLoad ready) = none ∧
    nextOf (exec .hwLoad { inFrame 0 0 with txbFull := true }) = none ∧
    nextOf (exec (.hwShift true) (inFrame 0 8)) = none ∧
    nextOf (exec .hwComplete (inFrame 0 7)) = none ∧
    nextOf (exec (.hwFrame 0) (inFrame 0 3)) = none ∧
    nextOf (exec .hwComplete ready) = none := by decide

/-- V-SEQ, single shifts: SHR after, the bit the peer sampled, mosi after. -/
theorem test_hwShift :
    (nextOf (exec (.hwShift true) (inFrame 0x7F 0))).map (fun t => (t.shr, t.output, t.mosi)) =
      some (0xFF, .peerBit false, true) ∧
    (nextOf (exec (.hwShift false) (inFrame 0x80 7))).map (fun t => (t.shr, t.output, t.mosi)) =
      some (0x00, .peerBit true, false) := by decide

/-- V-SEQ, overrun. -/
theorem test_hwComplete_overrun :
    (nextOf (exec .hwComplete (unread (inFrame 0x33 8) 0x22))).map
      (fun t => (t.rxb, srView t)) = some (0x33, 0x0003) ∧
    (nextOf (exec .hwComplete (keepOld (unread (inFrame 0x33 8) 0x22)))).map
      (fun t => (t.rxb, srView t)) = some (0x22, 0x0003) := by decide

/-- V-SEQ, back to back, row 5. -/
theorem test_hwFrame_backToBack :
    (nextOf (exec (.hwFrame 0xAA) { inFrame 0x11 0 with txb := 0x22, txbFull := true })).map
      (fun t => (t.rxb, t.shr, t.output, srView t)) =
      some (0xAA, 0x22, .peerByte 0x11, 0x0083) := by decide

/-- R176's example. -/
theorem test_hwFrame :
    (nextOf (exec (.hwFrame 0xA5) (inFrame 0xFF 0))).map
      (fun t => (t.rxb, t.output, srView t)) = some (0xA5, .peerByte 0xFF, 0x0003) := by decide

/-- V-RESET rows 1 and 4. -/
theorem test_envReset :
    (nextOf (exec .envReset { unread (inFrame 0xF4 5) 0x22 with
      faults := { FaultMarks.none with txOverwrite := true } })).map
      (fun t => (t.cr, srView t, t.bitcnt, t.clkEn, t.pinsRouted, t.faults.txOverwrite)) =
      some (0x0000, 0x0002, 0, false, false, true) := by decide

/-- V-ENV row 5. -/
theorem test_envPins : nextOf (exec .envPins ready) = some ready := by decide

/-- V-INIT rows 1 and 7, and the invalid arguments. -/
theorem test_initialize :
    initializeCall .default 1 = .ok [.wrCr .word 0x030C, .wrCr .word 0x034C] ∧
    initializeCall .default 7 = .ok [.wrCr .word 0x033C, .wrCr .word 0x037C] ∧
    initializeCall .default 8 = .error .configurationError ∧
    initializeCall .default (-1) = .error .configurationError := by
  refine ⟨rfl, rfl, rfl, rfl⟩

/-- V-INIT, column DIV(d); R205: the dummy byte. -/
theorem test_divisor_and_dummy :
    serialPeriod ready = some 8 ∧ framePeriod ready = some 64 ∧ Config.default.divOf 7 = some 512 ∧
    receiveCall .default = .receive 0xFF := by decide

/-- R11: the derived constants under the defaults. -/
theorem test_derived_constants :
    Config.default.crImpl = 0x037C ∧ Config.default.crMode = 0x033C ∧ Config.default.crEn = 0x0040 ∧
    Config.default.srImpl = 0x0083 ∧ Config.drImpl = 0x00FF := by decide

/-- R10, R60, R63 with other parameters: the window of 2^5 bytes ends at 0x101F, data above the 12 bits
of a register are ignored, and codes 0 to 3 fill the divisor field at bits 11:10. -/
theorem test_other_parameters :
    windowOffset narrowLayout 0x101F = some 0x1F ∧ windowOffset narrowLayout 0x1020 = none ∧
    (nextOf (exec (.wrCr .word 0xFFFFF423) (narrow on))).map State.cr = some 0x0423 ∧
    initializeCall narrowLayout 3 = .ok [.wrCr .word 0x0C23, .wrCr .word 0x0E23] ∧
    initializeCall narrowLayout 4 = .error .configurationError := by
  refine ⟨by decide, by decide, by decide, rfl, rfl⟩

/-- R34, R182 with CPOL = 1, CPHA = 1, MSB_FIRST = false: the mirror of the shift of V-SEQ, the bit just
sent still on the line, the clock resting high. -/
theorem test_other_wire_format :
    (nextOf (exec (.hwShift true) (narrow (inFrame 0xFE 0)))).map
      (fun t => (t.shr, t.output, t.mosi, t.sck)) = some (0xFF, .peerBit false, false, true) ∧
    (nextOf (exec .envReset (narrow ready))).map State.sck = some true := by decide

/-- R107, R14: an operation of a HOST program, from its beginning to its return. -/
theorem test_host_program :
    (HostProgram.ofOperations [.poll .txe true, .initializeWith 9]).hasReturned = false ∧
    (Operation.poll .rxne true).start .default = .polling .rxne true ∧
    (Operation.poll .rxne true).start .default ≠ .steps [] ∧
    ((Operation.initializeWith 9).start .default).hasReturned = true ∧
    ((Operation.bare (.wrDr .word 0xA5)).start .default).nextInstr = some (.wrDr .word 0xA5) ∧
    (Stage.inCall (.send 7) (.returned none)).hasReturned = true := by decide

/-- A step taken from a pending record is recorded, a fault marks its kind and is never cleared by a
reset. -/
theorem test_advance_marks :
    (advance { State.reset with inputs := [0x1008_0000_0000] }).faults.unclockedAccess = true ∧
    (advanceBy 2 { State.reset with
      inputs := [0x1008_0000_0000, 0x8000_0000_0000] }).faults.unclockedAccess = true ∧
    (advance { on with inputs := [0x200C_0000_00A5] }).refused = true := by decide

/-! ## Witnesses: states and operands that meet the hypotheses of the obligations, clause by clause -/

theorem test_witness_DecodeOfEncodeIsTheStep :
    Config.default.WF ∧ narrowLayout.WF := ⟨by decide, by decide⟩

theorem test_witness_EncodeOfDecodeIsTheRecord :
    decode .default 0x3FFF_FFFF_FFFF = .invalid .hostBit42 ∧
    decode .default 0x380C_FFFF_FFFF = .instr (.wrDr .reserved 0xFFFFFFFF) ∧
    decode narrowLayout 0x101C_0000_0000 = .instr (.rdCr .word) := by decide

theorem test_witness_RecordDecodesWhereItSelectsARow :
    decode .default 0x7000_0000_00FF = .instr (.hwFrame 0xFF) ∧
    SelectsRowOf 0x7000_0000_00FF (.hwFrame 0) ∧
    SelectsRowOf 0x380C_FFFF_FFFF (.wrDr .byte 0) ∧ SelectsRowOf 0x0000_0000_0000 (.rdCr .word) ∧
    (Instr.rdCr .byte).size? = some .byte ∧ (Instr.wrDr .reserved 0).size? = some .reserved ∧
    AccessSize.byte ≠ .half ∧ AccessSize.byte ≠ .word ∧ AccessSize.reserved ≠ .half ∧
    AccessSize.reserved ≠ .word ∧ on.clkEn = true := by decide

/-- Each kind of invalid record, and beside it the nearest valid one. -/
theorem test_witness_ReservedRecordsAreTheInvalidOnes :
    decode .default 0xC000_0000_0000 = .invalid .reservedAgent ∧
    decode .default 0x0400_0000_0000 = .invalid .hostBit42 ∧
    decode .default 0x0000_8000_0000 = .invalid .readWithData ∧
    decode .default 0x4800_0000_0000 = .invalid .seqNonzeroBits ∧
    decode .default 0x7000_0000_0100 = .invalid .seqNonzeroBits ∧
    decode .default 0x5000_0000_0080 = .invalid .shiftDataBits ∧
    decode .default 0x6000_0000_0001 = .invalid .loadCompleteData ∧
    decode .default 0xB000_0000_0000 = .invalid .envReservedKind ∧
    decode .default 0x8800_0000_0000 = .invalid .envNonzeroBits ∧
    decode .default 0x0000_0000_0000 = .instr (.rdCr .byte) ∧
    decode .default 0x2000_8000_0000 = .instr (.wrCr .byte 0x80000000) ∧
    decode .default 0x7000_0000_00FF = .instr (.hwFrame 0xFF) := by decide

/-- Offsets 4, 16, 0x0E and 0x3FF, a read and a write, both admitted sizes. -/
theorem test_witness_OtherOffsetsHoldNoRegister :
    (∀ o ∈ [(0x004 : Offset), 0x010, 0x00E, 0x3FF],
      o ≠ on.cfg.offCr ∧ o ≠ on.cfg.offSr ∧ o ≠ on.cfg.offDr ∧
      (o.toNat = 4 ∨ 16 ≤ o.toNat ∨ o.toNat % 4 ≠ 0)) ∧
    on.clkEn = true ∧
    refusalOf (takeRecord 0x1004_0000_0000 on) = some .reservedOffset ∧
    refusalOf (takeRecord 0x280E_0000_00A5 on) = some .reservedOffset := by decide

/-- The window's two ends, inside and outside. -/
theorem test_witness_AddressAndDirectionChooseTheStep :
    windowOffset .default 0x40013000 = some 0 ∧ windowOffset .default 0x400133FF = some 0x3FF ∧
    windowOffset .default 0x40012FFF = none ∧ windowOffset .default 0x40013400 = none ∧
    Config.default.OffsetsWF ∧
    memRead .default 0x4001300C 4 =
      some { we := false, size := .word, offset := 0x0C, wdata := 0 } ∧
    memWrite .default 0x4001300C 2 0xA5 =
      some { we := true, size := .half, offset := 0x0C, wdata := 0xA5 } ∧
    (0x00E : Offset) ≠ Config.default.offCr ∧ (0x00E : Offset) ≠ Config.default.offSr ∧
    (0x00E : Offset) ≠ Config.default.offDr := by decide

theorem test_witness_StepTakesTheOldestRecord :
    (on.withFetchWord 48 0x100800000000).inputs = [0x1008_0000_0000] ∧
    decode on.cfg 0x1008_0000_0000 = .instr (.rdSr .word) ∧
    decode on.cfg 0x1004_0000_0000 =
      .noRegister { we := false, size := .word, offset := 4, wdata := 0 } ∧
    decode on.cfg 0xC000_0000_0000 = .invalid .reservedAgent ∧
    readOf (step (on.withFetchWord 48 0x100800000000)) = some (.readValue 0x0002, 0x0002) := by
  decide

theorem test_witness_AloneOnlySeqSteps :
    State.reset.inputs = [] ∧ (staged 0x3C).inputs = [] ∧
    seqChoice (staged 0x3C) true = some .hwLoad := by decide

theorem test_witness_ClockThenSizeAreCheckedFirst :
    (Instr.rdSr .word).size? = some .word ∧ State.reset.clkEn = false ∧
    (Instr.rdSr .byte).size? = some .byte ∧ (Instr.wrDr .reserved 0).size? = some .reserved ∧
    on.clkEn = true ∧
    faultOf (execNoRegister { we := false, size := .byte, offset := 4, wdata := 0 } .reset) =
      some (.unclockedAccess 0x0004_0000_0000) ∧
    refusalOf (execNoRegister { we := false, size := .byte, offset := 4, wdata := 0 } on) =
      some .badAccessSize := by decide

/-- The premises of the HOST statements: clocked, and an admitted size; and a bus that carries a whole
register. -/
theorem test_witness_RdCrReturnsCr :
    ready.clkEn = true ∧ (AccessSize.half = .half ∨ AccessSize.half = .word) ∧ 16 ≤ ready.cfg.busw := by
  decide

theorem test_witness_CrReadsBackWhatWasWritten :
    on.cfg.WidthsWF ∧ (narrow on).cfg.WidthsWF ∧
    ∃ t, exec (.wrCr .word 0x030C) on = .next t ∧ (AccessSize.half = .half ∨ AccessSize.half = .word) :=
  ⟨by decide, by decide, _, rfl, by decide⟩

/-- A word with SPE = 0 that changes the mode bits, and one with SPE = 1 that keeps them. -/
theorem test_witness_WrCrStoresAnAdmittedWord :
    (∀ x ∈ [((0xFFFF0314 : Word), (0x0314 : Half), ready), (0x037C, 0x037C, { on with cr := 0x033C }),
        (0xF423, 0x0423, narrow on)],
      x.2.2.cfg.WidthsWF ∧ x.2.2.clkEn = true ∧
      x.2.1 = BitVec.ofNat 16 (x.1.toNat % 2 ^ x.2.2.cfg.regw.val) ∧
      x.2.1 &&& ~~~x.2.2.cfg.crImpl = 0 ∧ x.2.2.phase = .idle ∧
      (x.2.1.getLsbD x.2.2.cfg.crSpe.val = true →
        x.2.1 &&& x.2.2.cfg.crMode = x.2.2.cr &&& x.2.2.cfg.crMode ∧
        x.2.1.getLsbD x.2.2.cfg.crMstr.val = true ∧ x.2.1.getLsbD x.2.2.cfg.crSsm.val = true ∧
        x.2.1.getLsbD x.2.2.cfg.crSsi.val = true)) ∧
    (0x0314 : Half).getLsbD ready.cfg.crSpe.val = false ∧
    (0x037C : Half).getLsbD ready.cfg.crSpe.val = true := by decide

/-- One write for each of the six clauses (V-CR rows 11, 17, 2, 6, 8, 10). -/
theorem test_witness_WrCrStopsInTheOrderOfItsChecks :
    refusalOf (exec (.wrCr .word 0x0001) on) = some .reservedCrBits ∧
    faultOf (exec (.wrCr .word 0x030C) (inFrame 0 8)) =
      some (.configChangeWhileBusy 0x034C 0x030C) ∧
    faultOf (exec (.wrCr .word 0x0354) ready) = some (.modeChangeWhileEnabled 0x034C 0x0354) ∧
    refusalOf (exec (.wrCr .half 0x0040) on) = some .slaveRole ∧
    refusalOf (exec (.wrCr .word 0x0044) { on with cr := 0x0004 }) = some .hardwareNss ∧
    faultOf (exec (.wrCr .word 0x0244) { on with cr := 0x0204 }) =
      some (.modeFaultConfig 0x0244) ∧ on.cfg.WidthsWF ∧ on.clkEn = true ∧ on.phase = .idle := by
  decide

theorem test_witness_EnablingInOneWriteFaults :
    on.cfg.WidthsWF ∧ on.cfg.CrWF ∧ 7 < 2 ^ on.cfg.brw.val ∧ (narrow on).cfg.WidthsWF ∧
    (narrow on).cfg.CrWF ∧ 3 < 2 ^ (narrow on).cfg.brw.val ∧ on.clkEn = true ∧ on.phase = .idle ∧ on.cr = 0 ∧
    faultOf (exec (.wrCr .word 0x0344) on) = some (.modeChangeWhileEnabled 0 0x0344) ∧
    faultOf (exec (.wrCr .word 0x037C) on) = some (.modeChangeWhileEnabled 0 0x037C) := by decide

theorem test_witness_RdSrReturnsTheThreeFlags :
    on.cfg.SrWF ∧ on.cfg.WidthsWF ∧ (narrow on).cfg.SrWF ∧ (narrow on).cfg.WidthsWF ∧ on.clkEn = true ∧ on.cfg = .default ∧
    readOf (exec (.rdSr .half) on) = some (.readValue 0x0002, 0x0002) := by decide

theorem test_witness_WrSrChangesNothing :
    on.clkEn = true ∧ nextOf (exec (.wrSr .half 0xFFFFFFFF) on) = some on := by decide

theorem test_witness_RdDrReturnsRxbAndClearsRxne :
    ready.cfg.WidthsWF ∧ (unread ready 0xFF).clkEn = true ∧ (unread ready 0xFF).rxbFull = true := by
  decide

theorem test_witness_EarlyRdDrReturnsSomeByte :
    on.cfg.WidthsWF ∧ on.clkEn = true ∧ on.rxbFull = false := by decide

/-- Idle and enabled, within a frame, and with SPE = 0. -/
theorem test_witness_WrDrStagesTheLowByte :
    ready.cfg.WidthsWF ∧ ready.clkEn = true ∧ ready.txbFull = false ∧ (inFrame 0 8).clkEn = true ∧
    (inFrame 0 8).txbFull = false ∧ on.clkEn = true ∧ on.txbFull = false := by decide

theorem test_witness_WrDrWhileFullFaults :
    ready.cfg.WidthsWF ∧ (staged 0x3C).clkEn = true ∧ (staged 0x3C).txbFull = true := by decide

theorem test_witness_BothSizesDoTheSame :
    on.clkEn = true ∧
    nextOf (exec (.wrCr .half 0x030C) on) = nextOf (exec (.wrCr .word 0x030C) on) := by decide

theorem test_witness_HwLoadStartsTheFrame :
    (staged 0xA5).clkEn = true ∧ (staged 0xA5).cr.getLsbD (staged 0xA5).cfg.crSpe.val = true ∧
    (staged 0xA5).cr.getLsbD (staged 0xA5).cfg.crMstr.val = true ∧
    (staged 0xA5).cr.getLsbD (staged 0xA5).cfg.crSsm.val = true ∧
    (staged 0xA5).cr.getLsbD (staged 0xA5).cfg.crSsi.val = true ∧
    (staged 0xA5).phase = .idle ∧ (staged 0xA5).txbFull = true := by decide

/-- The first and the last bit of a frame. -/
theorem test_witness_HwShiftMovesOneBit :
    (inFrame 0xFF 0).clkEn = true ∧ (inFrame 0xFF 0).phase = .shift ∧
    (inFrame 0xFF 0).bitcnt.toNat < 8 ∧ (inFrame 0xFF 7).bitcnt.toNat < 8 := by decide

/-- Both ends of a frame, and both values of RX_OVERRUN on an unread byte. -/
theorem test_witness_HwCompleteDeliversTheByte :
    (inFrame 0xA5 8).clkEn = true ∧ (inFrame 0xA5 8).phase = .shift ∧ (inFrame 0xA5 8).bitcnt = 8 ∧
    (inFrame 0xA5 8).txbFull = false ∧ { inFrame 0xA5 8 with txbFull := true }.txbFull = true ∧
    (unread (inFrame 0xA5 8) 0x22).rxbFull = true ∧
    (keepOld (unread (inFrame 0xA5 8) 0x22)).cfg.rxOverrun = .keepOld := by decide

theorem test_witness_HwFrameRunsAWholeFrame :
    (inFrame 0xFF 0).clkEn = true ∧ (inFrame 0xFF 0).phase = .shift ∧ (inFrame 0xFF 0).bitcnt = 0 ∧
    (inFrame 0xFF 0).txbFull = false ∧ { inFrame 0xFF 0 with txbFull := true }.txbFull = true ∧
    (nextOf (exec (.hwFrame 0xA5) (keepOld (unread (inFrame 0xFF 0) 0x22)))).map State.rxb =
      some 0x22 := by decide

/-- Each guard fails just beside where it holds. -/
theorem test_witness_SeqStepsNeedTheirGuards :
    refusalOf (exec .hwLoad ready) = some .loadNotEnabled ∧
    refusalOf (exec (.hwShift false) (inFrame 0 8)) = some .shiftNotEnabled ∧
    refusalOf (exec .hwComplete (inFrame 0 7)) = some .completeNotEnabled ∧
    refusalOf (exec .hwComplete (inFrame 0 9)) = some .completeNotEnabled ∧
    refusalOf (exec (.hwFrame 0) (inFrame 0 1)) = some .frameNotEnabled := by decide

theorem test_witness_AtMostOneSeqStepIsEnabled :
    quiet ready = true ∧ (nextOf (exec .hwLoad (staged 0))).isSome = true ∧
    (nextOf (exec (.hwShift false) (inFrame 0 7))).isSome = true ∧
    (nextOf (exec .hwComplete (inFrame 0 8))).isSome = true := by decide

/-- Every row of the table is taken. -/
theorem test_witness_SequencerMovesByItsTable :
    (∃ t, exec .hwLoad (staged 0) = .next t) ∧
    (∃ t, exec (.hwShift true) (inFrame 0 7) = .next t) ∧
    (∃ t, exec .hwComplete (inFrame 0 8) = .next t) ∧
    (∃ t, exec .hwComplete { inFrame 0 8 with txbFull := true } = .next t) ∧
    (∃ t, exec (.hwFrame 0) (inFrame 0 0) = .next t) ∧ (∃ t, exec .envPins on = .next t) ∧
    (∃ t, exec (.wrSr .word 0) on = .next t) :=
  ⟨⟨_, rfl⟩, ⟨_, rfl⟩, ⟨_, rfl⟩, ⟨_, rfl⟩, ⟨_, rfl⟩, ⟨_, rfl⟩, ⟨_, rfl⟩⟩

theorem test_witness_SeqStepsKeepWhatPollingReliesOn :
    (∃ t, exec .hwLoad (staged 0) = .next t) ∧ Instr.hwLoad.agent = .seq ∧
    txe (inFrame 0 8) = true ∧ rxne (unread (inFrame 0 8) 0) = true ∧
    (∃ t, exec .hwComplete (unread (inFrame 0 8) 0) = .next t) :=
  ⟨⟨_, rfl⟩, rfl, rfl, rfl, ⟨_, rfl⟩⟩

/-- A frame that starts through routed pins, in either order of bits. -/
theorem test_witness_EightShiftsAndACompleteAreOneFrame :
    (inFrame 0x3C 0).clkEn = true ∧ (inFrame 0x3C 0).phase = .shift ∧ (inFrame 0x3C 0).bitcnt = 0 ∧
    (inFrame 0x3C 0).pinsRouted = true ∧ (inFrame 0x3C 0).cfg.msbFirst = true ∧
    (narrow (inFrame 0x3C 0)).cfg.msbFirst = false := by decide

theorem test_witness_EnvPinsRoutesThePins : ready.pinsRouted = true := by decide

/-- Each of the three outcomes, with the pins not routed. -/
theorem test_witness_PinRoutingChangesNothingVisible :
    (nextOf (exec (.hwFrame 0xA5) { inFrame 0xFF 0 with pinsRouted := false })).map
      (fun t => (t.rxb, t.output)) = some (0xA5, .nothing) ∧
    faultOf (exec (.rdSr .word) .reset) = some (.unclockedAccess 0x1008_0000_0000) ∧
    refusalOf (exec .hwLoad on) = some .loadNotEnabled := by decide

theorem test_witness_EnvResetRestoresTheResetValues :
    ready.cfg.cpol = false ∧ ready.cfg = .default ∧ ∃ t, exec .envReset ready = .next t := ⟨rfl, rfl, _, rfl⟩

/-- A two-bit field at either end of the register, with the largest value, and the whole register. -/
theorem test_witness_ClearThenSetIsAProjection :
    30 + 2 ≤ 32 ∧ (3 : Word).toNat < 2 ^ 2 ∧ 0 + 32 ≤ 32 ∧ (0xFFFFFFFF : Word).toNat < 2 ^ 32 ∧
    clearThenSet 0x00000004 2 2 2 = 0x00000008 ∧ setOnly 0x00000004 2 2 = 0x0000000C ∧
    (∃ t u, exec .envPins on = .next t ∧ exec .envPins t = .next u) :=
  ⟨by decide, by decide, by decide, by decide, by decide, by decide, _, _, rfl, rfl⟩

/-- Each bit changes both ways. -/
theorem test_witness_OnlyTheirStepsChangeTheFullBits :
    ready.txbFull = false ∧ ready.rxbFull = false ∧
    (nextOf (exec (.wrDr .word 0) ready)).map State.txbFull = some true ∧
    (nextOf (exec .hwLoad (staged 0))).map State.txbFull = some false ∧
    (nextOf (exec (.hwFrame 0) (inFrame 0 0))).map State.rxbFull = some true ∧
    (nextOf (exec (.rdDr .word) (unread ready 0))).map State.rxbFull = some false ∧
    (nextOf (exec .hwComplete (inFrame 0 8))).map State.rxbFull = some true ∧
    (nextOf (exec .envReset (unread (staged 0) 0))).map
      (fun t => (t.txbFull, t.rxbFull)) = some (false, false) := by decide

theorem test_witness_OnlyEnvChangesItsInputs :
    State.reset.clkEn = false ∧ (nextOf (exec .envClkOn .reset)).map State.clkEn = some true ∧
    (nextOf (exec .envPins .reset)).map State.pinsRouted = some true ∧
    (nextOf (exec .envReset ready)).map (fun t => (t.clkEn, t.pinsRouted)) =
      some (false, false) := by decide

theorem test_witness_EachRegisterHasItsWriters :
    (nextOf (exec (.wrCr .word 0x030C) on)).map (fun t => t.cr != on.cr) = some true ∧
    (nextOf (exec (.wrDr .word 0xA5) on)).map (fun t => t.txb != on.txb) = some true ∧
    (nextOf (exec (.hwFrame 0xA5) (inFrame 0 0))).map (fun t => t.rxb != 0) = some true ∧
    (nextOf (exec .hwLoad (staged 0xA5))).map (fun t => t.shr != 0) = some true := by decide

theorem test_witness_StepsKeepMarksAndParameters :
    Instr.envClkOn ≠ .envReset ∧ ∃ t, exec .envClkOn .reset = .next t := ⟨by decide, _, rfl⟩

/-- One step for each of MF1 to MF5. -/
theorem test_witness_FaultsHaveTheirListedCause :
    on.cfg.WidthsWF ∧ faultOf (exec (.rdSr .word) .reset) = some (.unclockedAccess 0x1008_0000_0000) ∧
    faultOf (exec (.wrDr .word 0x15A) (staged 0xA5)) = some (.txOverwrite 0x5A 0xA5) ∧
    faultOf (exec (.wrCr .word 0x034C) (inFrame 0 0)) =
      some (.configChangeWhileBusy 0x034C 0x034C) ∧
    faultOf (exec (.wrCr .word 0x034C) on) = some (.modeChangeWhileEnabled 0 0x034C) ∧
    faultOf (exec (.wrCr .word 0x0244) { on with cr := 0x0204 }) =
      some (.modeFaultConfig 0x0244) := by decide

/-- One step for each refusal that exec gives, and an ENV step. -/
theorem test_witness_RefusalsHaveTheirListedCause :
    on.cfg.WidthsWF ∧ refusalOf (exec (.rdSr .reserved) on) = some .badAccessSize ∧
    refusalOf (exec (.wrCr .word 0x8000) on) = some .reservedCrBits ∧
    refusalOf (exec (.wrCr .word 0x0040) on) = some .slaveRole ∧
    refusalOf (exec (.wrCr .word 0x0044) { on with cr := 0x0004 }) = some .hardwareNss ∧
    refusalOf (exec .hwLoad ready) = some .loadNotEnabled ∧ Instr.envReset.agent = .env := by decide

theorem test_witness_RunsRecordMarksForGood :
    ({ State.reset with faults := { FaultMarks.none with txOverwrite := true }
                        refused := true }).faults.has .txOverwrite = true ∧
    faultOf (step { State.reset with inputs := [0x1008_0000_0000] }) =
      some (.unclockedAccess 0x1008_0000_0000) ∧
    refusalOf (step { on with inputs := [0x200C_0000_00A5] }) = some .badAccessSize ∧
    Refusal.badAccessSize.isListed = true := by decide

/-- From a frame's last state, by a pending HW_COMPLETE. -/
theorem test_witness_StepKeepsTheInvariants :
    Inv { inFrame 0x3C 8 with inputs := [0x6000_0000_0000] } ∧
    ∃ t, step { inFrame 0x3C 8 with inputs := [0x6000_0000_0000] } = .next t :=
  ⟨by constructor <;> decide, _, rfl⟩

theorem test_witness_StepKeepsTheLineOnShr :
    LineCarriesShr { inFrame 0x80 0 with inputs := [0x5000_0000_0001] } ∧
    ∃ t, step { inFrame 0x80 0 with inputs := [0x5000_0000_0001] } = .next t :=
  ⟨by unfold LineCarriesShr; decide, _, rfl⟩

theorem test_witness_ControlAndEnableWordsHoldTheirFields :
    Config.default.CrWF ∧ 7 < 2 ^ Config.default.brw.val ∧ narrowLayout.CrWF ∧
    3 < 2 ^ narrowLayout.brw.val ∧ br narrowLayout (controlWord narrowLayout 3) = 3 := by decide

/-- The two ends of the range of d, from reset with the clock on and from an enabled block. -/
theorem test_witness_InitializeEndsActive :
    (0 < 2 ^ on.cfg.brw.val ∧ 7 < 2 ^ on.cfg.brw.val ∧ 3 < 2 ^ (narrow on).cfg.brw.val) ∧
    (on.cfg.CrWF ∧ on.cfg.WidthsWF ∧ on.clkEn = true ∧ on.phase = .idle) ∧
    (ready.cfg.CrWF ∧ ready.clkEn = true ∧ ready.phase = .idle) ∧
    (narrow on).cfg.CrWF ∧ (narrow on).cfg.WidthsWF :=
  ⟨by decide, by decide, by decide, by decide, by decide⟩

theorem test_witness_InitializeRejectsOtherCodes :
    Config.default.brw = 3 ∧ (-1 : Int) < 0 ∧ (7 : Int) < 8 ∧
    (2 : Int) ^ narrowLayout.brw.val ≤ 4 := by decide

/-- A poll that ends at once, one that does not, and one of an unclocked block. -/
theorem test_witness_PollEndsWhereTheFlagHolds :
    ready.cfg.SrWF ∧ ready.cfg.WidthsWF ∧ ready.clkEn = true ∧ State.reset.clkEn = false ∧
    StatusFlag.holds ready .txe = true ∧ StatusFlag.holds ready .rxne = false ∧
    ({ stage := .polling .txe true, rest := [] } : HostProgram).stage =
      (Operation.poll .txe true).start ready.cfg ∧
    ∃ t, exec (.rdSr .word) ready = .next t ∧
      pollEnds ready.cfg .txe true t.output.value = true ∧
      pollEnds ready.cfg .rxne true t.output.value = false :=
  ⟨by decide, by decide, rfl, rfl, rfl, rfl, rfl, _, rfl, rfl, rfl⟩

/-- R200, R260: between two reads of `POLL BSY = 0` during a frame ENV resets the block and clocks it
again, and the next read ends the poll. -/
theorem test_reset_between_reads :
    bsy (inFrame 7 3) = true ∧
    ∃ t, Relation.ReflTransGen ProgramMove
      ({ stage := .polling .bsy false, rest := [] }, inFrame 7 3)
      ({ stage := .steps [], rest := [] }, t) := by
  exact ⟨rfl, _, .head (b := ({ stage := .polling .bsy false, rest := [] }, _)) (.host rfl) <|
    .head (.env (i := .envReset) rfl trivial rfl) <| .head (.env (i := .envClkOn) rfl trivial rfl) <|
    .single (.host rfl)⟩

/-- ENV_RESET in a call: a frame is abandoned and the call, clocked again, returns in QUIET. -/
theorem test_witness_reset_in_a_call :
    ∃ t, Relation.ReflTransGen (Move (.send 7)) (.pollTxe, ready) (.returned none, t) := by
  exact ⟨_, .head (b := (.writeDr, _)) (.host rfl) <| .head (b := (.pollLoaded, _)) (.host rfl) <|
    .head (.seq (i := .hwLoad) rfl rfl) <| .head (.env (i := .envReset) rfl trivial rfl) <|
    .head (.env (i := .envClkOn) rfl trivial rfl) <|
    .head (b := (.pollBsy, _)) (.host rfl) <| .single (.host rfl)⟩

/-- A call stands at each of its positions in some state. -/
theorem inCall_positions :
    InCall (.transferByte 7) .pollTxe ready ∧ InCall (.transferByte 7) .writeDr ready ∧
    InCall (.transferByte 7) .pollLoaded (staged 7) ∧
    InCall (.transferByte 7) .pollLoaded (inFrame 7 0) ∧
    InCall (.transferByte 7) .pollBsy (inFrame 7 8) ∧
    InCall (.transferByte 7) .pollRxne (unread ready 9) ∧
    InCall (.transferByte 7) .readDr (unread ready 9) ∧
    InCall (.transferByte 7) (.returned (some 0)) ready ∧
    InCall (.send 7) (.returned none) (unread ready 9) :=
  ⟨⟨rfl, rfl⟩, ⟨rfl, rfl⟩, ⟨rfl, .inl ⟨rfl, rfl, rfl⟩⟩, ⟨rfl, .inr (.inl ⟨rfl, rfl⟩)⟩,
    ⟨rfl, .inl ⟨rfl, rfl⟩⟩, ⟨rfl, rfl, rfl, rfl⟩, ⟨rfl, rfl, rfl, rfl⟩, ⟨rfl, rfl, rfl, rfl, rfl⟩,
    ⟨rfl, rfl, rfl, rfl⟩⟩

/-- A move of each agent. -/
theorem test_witness_CallMovesKeepTheirStates :
    ready.cfg.SrWF ∧ ready.cfg.WidthsWF ∧ InCall (.send 0x3C) .pollTxe ready ∧
    (∃ q, MoveWithoutReset (.send 0x3C) (.pollTxe, ready) q) ∧
    InCall (.send 0x3C) .pollLoaded (staged 0x3C) ∧
    (∃ q, MoveWithoutReset (.send 0x3C) (.pollLoaded, staged 0x3C) q) ∧
    (∃ q, MoveWithoutReset (.send 0x3C) (.pollTxe, ready) (.pollTxe, q)) :=
  ⟨by decide, by decide, ⟨rfl, rfl⟩, ⟨_, .host rfl⟩, ⟨rfl, .inl ⟨rfl, rfl, rfl⟩⟩,
    ⟨_, .seq (i := .hwLoad) rfl rfl⟩, ⟨_, .env (i := .envPins) rfl (by unfold NoReset; decide) rfl⟩⟩

theorem test_witness_CallsNeverStop :
    InCall (.receive 0xFF) .writeDr ready ∧ InCall (.receive 0xFF) .readDr (unread ready 0xA5) :=
  ⟨⟨rfl, rfl⟩, ⟨rfl, rfl, rfl, rfl⟩⟩

/-- Program P1's eager schedule after initialize: send(0x3C), the peer returns 0x81. -/
theorem test_witness_ReturnedCallsLeaveTheBusQuiet :
    ready.cfg.SrWF ∧ ready.cfg.WidthsWF ∧ active ready = true ∧ quiet ready = true ∧
    ∃ t, Relation.ReflTransGen (MoveWithoutReset (.send 0x3C)) (.pollTxe, ready)
      (.returned none, t) := by
  exact ⟨by decide, by decide, rfl, rfl, _,
    .head (b := (.writeDr, _)) (.host rfl) <| .head (b := (.pollLoaded, _)) (.host rfl) <|
    .head (.seq (i := .hwLoad) rfl rfl) <| .head (.seq (i := .hwFrame 0x81) rfl rfl) <|
    .head (b := (.pollBsy, _)) (.host rfl) <| .single (.host rfl)⟩

/-- The same schedule as a run with its SEQ steps, at byte level. -/
theorem test_witness_TransferReturnsThePeersByte :
    ready.cfg.SrWF ∧ ready.cfg.WidthsWF ∧ active ready = true ∧ quiet ready = true ∧
    ready.pinsRouted = true ∧ (keepOld (unread ready 0x22)).rxbFull = true ∧
    (keepOld (unread ready 0x22)).cfg.rxOverrun = .keepOld ∧
    ∃ l t, CallRun NoReset (.send 0x3C) l (.pollTxe, ready) (.returned none, t) ∧
      l.map Prod.fst = [.hwLoad, .hwFrame 0x81] := by
  exact ⟨by decide, by decide, rfl, rfl, rfl, rfl, rfl, _, _,
    .host (q := (.writeDr, _)) rfl <| .host (q := (.pollLoaded, _)) rfl <|
    .seq (i := .hwLoad) rfl rfl <| .seq (i := .hwFrame 0x81) rfl rfl <|
    .host (q := (.pollBsy, _)) rfl <| .host rfl .here, rfl⟩

/-- A run with a byte staged: HW_LOAD, HW_FRAME, then polls of SR for ever. -/
def pollSteps : Nat → Instr
  | 0 => .hwLoad
  | 1 => .hwFrame 0xA5
  | _ + 2 => .rdSr .word

def pollLoaded : State := (nextOf (exec .hwLoad (staged 0x3C))).getD .reset

def pollFinished : State := (nextOf (exec (.hwFrame 0xA5) pollLoaded)).getD .reset

def pollForever : State := pollFinished.withOutput (.readValue 0x0003)

def pollStates : Nat → State
  | 0 => staged 0x3C
  | 1 => pollLoaded
  | 2 => pollFinished
  | _ + 3 => pollForever

theorem poll_again : exec (.rdSr .word) pollForever = .next pollForever := rfl

theorem pollForever_quiet : ¬ SeqEnabled pollForever := by
  rintro (h | h | h) <;> exact absurd h (by decide)

theorem test_witness_PollingEndsUnderProgress :
    IsRun pollSteps pollStates ∧ Progress pollSteps pollStates ∧ Inv (pollStates 0) ∧
    active (pollStates 0) = true ∧
    ∀ n, (∃ z, pollSteps n = .rdSr z) ∨ (pollSteps n).agent = .seq ∨ pollSteps n = .envClkOn ∨
      pollSteps n = .envPins := by
  refine ⟨fun n => ?_, fun n => ⟨n + 3, by omega, .inr ?_⟩, by constructor <;> decide, rfl,
    fun n => ?_⟩
  · match n with
    | 0 => rfl
    | 1 => rfl
    | 2 => rfl
    | _ + 3 => exact poll_again
  · exact pollForever_quiet
  · match n with
    | 0 => exact .inr (.inl rfl)
    | 1 => exact .inr (.inl rfl)
    | _ + 2 => exact .inl ⟨_, rfl⟩

/-- P5c: a byte staged while SPE = 0, and a program that polls for TXE = 1. -/
theorem test_witness_StagedByteWaitsWithoutActive :
    on.cfg.SrWF ∧ on.cfg.WidthsWF ∧ active { on with txb := 0x3C, txbFull := true } = false ∧
    { on with txb := 0x3C, txbFull := true }.phase = .idle ∧
    { on with txb := 0x3C, txbFull := true }.txbFull = true ∧ on.clkEn = true ∧
    ({ stage := .polling .txe true, rest := [] } : HostProgram).stage = .polling .txe true := by decide

/-- V-POLL row 4. -/
theorem test_witness_UnclockedByteNeverArrives :
    ready.cfg.SrWF ∧ ready.cfg.WidthsWF ∧ quiet ready = true ∧ ready.rxbFull = false ∧
    ready.clkEn = true ∧
    ({ stage := .polling .rxne true, rest := [] } : HostProgram).stage = .polling .rxne true := by decide

/-- A program of one send, to its end. -/
theorem test_witness_ProgramsOfCallsEndFinal :
    ready.cfg.SrWF ∧ ready.cfg.WidthsWF ∧ quiet ready = true ∧ ready.inputs = [] ∧
    ready.faults = .none ∧ ready.refused = false ∧
    ∃ h t, Relation.ReflTransGen ProgramMove (.ofOperations ([Call.send 0x3C].map .call), ready)
      (h, t) ∧ h.hasReturned = true := by
  exact ⟨by decide, by decide, rfl, rfl, rfl, rfl,
    { stage := .inCall (.send 0x3C) (.returned none), rest := [] }, _,
    .head (b := ({ stage := .inCall (.send 0x3C) .pollTxe, rest := [] }, _)) (.host rfl) <|
    .head (b := ({ stage := .inCall (.send 0x3C) .writeDr, rest := [] }, _)) (.host rfl) <|
    .head (b := ({ stage := .inCall (.send 0x3C) .pollLoaded, rest := [] }, _)) (.host rfl) <|
    .head (.seq (i := .hwLoad) rfl rfl) <| .head (.seq (i := .hwFrame 0x81) rfl rfl) <|
    .head (b := ({ stage := .inCall (.send 0x3C) .pollBsy, rest := [] }, _)) (.host rfl) <|
    .single (.host rfl), rfl⟩

end Sys2Proof.Tests
end

/-! ## What a taken step leaves in the state

Every taken step ends in one fixed update of the state, whatever it gives out. The claims about who
changes what (spec/10_state.md) are read off that update, one element at a time. -/

namespace Sys2Proof.Machine

/-- The state that the step i leaves when it is taken in s, but for what it gives out. -/
def State.after (s : State) : Instr → State
  | .rdCr _ => s
  | .wrCr _ v => s.setCr (crOperand s.cfg v)
  | .rdSr _ => s
  | .wrSr _ _ => s
  | .rdDr _ => s.clearRxne.drawn (if s.rxbFull then 0 else 1)
  | .wrDr _ v => s.stage (drOperand s.cfg v)
  | .hwLoad => s.loadFrame
  | .hwShift m => s.shiftBit m
  | .hwComplete => finishFrame s
  | .hwFrame r => finishFrame (s.fillFrame r)
  | .envReset => s.resetRegisters
  | .envClkOn => s.clockOn
  | .envPins => s.routePins

/-- A taken step ends in its update, with some output. -/
theorem exec_next {i : Instr} {s t : State} (h : exec i s = .next t) :
    ∃ o, t = (s.after i).withOutput o := by
  cases i with
  | rdCr z => obtain ⟨-, -, e⟩ := execRdCr_next h; exact ⟨_, e⟩
  | wrCr z v => obtain ⟨-, -, -, -, -, e⟩ := execWrCr_next h; exact ⟨_, e⟩
  | rdSr z => obtain ⟨-, -, e⟩ := execRdSr_next h; exact ⟨_, e⟩
  | wrSr z v => obtain ⟨-, -, e⟩ := execWrSr_next h; exact ⟨_, e⟩
  | rdDr z =>
    obtain ⟨-, -, ⟨hf, e⟩ | ⟨hf, e⟩⟩ := execRdDr_next h <;>
      exact ⟨_, by rw [e, State.after, hf]; rfl⟩
  | wrDr z v => obtain ⟨-, -, -, e⟩ := execWrDr_next h; exact ⟨_, e⟩
  | hwLoad => exact ⟨_, (execHwLoad_next h).2⟩
  | hwShift m => exact ⟨_, (execHwShift_next h).2⟩
  | hwComplete => exact ⟨_, (execHwComplete_next h).2⟩
  | hwFrame r => exact ⟨_, (execHwFrame_next h).2⟩
  | envReset => exact ⟨_, execEnvReset_next h⟩
  | envClkOn => exact ⟨_, execEnvClkOn_next h⟩
  | envPins => exact ⟨_, execEnvPins_next h⟩

/-! ### The end of a frame, one element at a time -/

@[simp] theorem finishFrame_txbFull (s : State) : (finishFrame s).txbFull = false := by
  obtain ⟨-, -, h, -⟩ := finishFrame_keeps s
  exact h

@[simp] theorem finishFrame_rxbFull (s : State) : (finishFrame s).rxbFull = true := by
  obtain ⟨-, -, -, h, -⟩ := finishFrame_keeps s
  exact h

@[simp] theorem finishFrame_clkEn (s : State) : (finishFrame s).clkEn = s.clkEn := by
  obtain ⟨-, -, -, -, -, -, h, -⟩ := finishFrame_keeps s
  exact h

@[simp] theorem finishFrame_pinsRouted (s : State) : (finishFrame s).pinsRouted = s.pinsRouted := by
  obtain ⟨-, -, -, -, -, -, -, h, -⟩ := finishFrame_keeps s
  exact h

/-- A byte staged when a frame ends is the next one in SHR (42_serializer.md R175). -/
theorem finishFrame_shr_of_txbFull {s : State} (h : s.txbFull = true) :
    (finishFrame s).shr = s.txb := by
  simp [finishFrame, h]

/-! ### Who changes what -/

/-- A bit that is kept, raised under `up` or lowered under `down` changes only under these. -/
theorem raised_and_lowered_only {b b' : Bool} {up down : Prop}
    (h : b' = b ∨ (up ∧ b' = true) ∨ (down ∧ b' = false)) :
    (b = false → b' = true → up) ∧ (b = true → b' = false → down) := by
  constructor <;> rintro rfl rfl <;> simpa using h

/-- A step that ends a frame keeps txb_full = 0, and lowers txb_full = 1 by moving TXB to SHR. -/
theorem finishFrame_txbFull_cases (s : State) :
    (finishFrame s).txbFull = s.txbFull ∨
    ((finishFrame s).shr = s.txb ∧ (finishFrame s).txbFull = false) := by
  cases h : s.txbFull with
  | false => exact .inl (finishFrame_txbFull s)
  | true => exact .inr ⟨finishFrame_shr_of_txbFull h, finishFrame_txbFull s⟩

/-- A step keeps txb_full, or it is WR_DR and raises it, or it lowers it: a SEQ step that moves TXB
to SHR, or ENV_RESET (10_state.md R28). -/
theorem after_txbFull_cases (s : State) (i : Instr) :
    (s.after i).txbFull = s.txbFull ∨
    ((∃ z v, i = .wrDr z v) ∧ (s.after i).txbFull = true) ∨
    ((((i = .hwLoad ∨ i = .hwComplete ∨ ∃ r, i = .hwFrame r) ∧ (s.after i).shr = s.txb) ∨
      i = .envReset) ∧ (s.after i).txbFull = false) := by
  cases i with
  | wrDr z v => exact .inr (.inl ⟨⟨z, v, rfl⟩, rfl⟩)
  | hwLoad => exact .inr (.inr ⟨.inl ⟨.inl rfl, rfl⟩, rfl⟩)
  | hwComplete =>
    exact (finishFrame_txbFull_cases s).imp_right fun ⟨hshr, e⟩ =>
      .inr ⟨.inl ⟨.inr (.inl rfl), hshr⟩, e⟩
  | hwFrame r =>
    exact (finishFrame_txbFull_cases (s.fillFrame r)).imp_right fun ⟨hshr, e⟩ =>
      .inr ⟨.inl ⟨.inr (.inr ⟨r, rfl⟩), hshr⟩, e⟩
  | envReset => exact .inr (.inr ⟨.inr rfl, rfl⟩)
  | _ => exact .inl rfl

/-- A step keeps rxb_full, or it ends a frame and raises it, or it is RD_DR or ENV_RESET and lowers
it (10_state.md R28). -/
theorem after_rxbFull_cases (s : State) (i : Instr) :
    (s.after i).rxbFull = s.rxbFull ∨
    ((i = .hwComplete ∨ ∃ r, i = .hwFrame r) ∧ (s.after i).rxbFull = true) ∨
    (((∃ z, i = .rdDr z) ∨ i = .envReset) ∧ (s.after i).rxbFull = false) := by
  cases i with
  | rdDr z => exact .inr (.inr ⟨.inl ⟨z, rfl⟩, rfl⟩)
  | hwComplete => exact .inr (.inl ⟨.inl rfl, finishFrame_rxbFull s⟩)
  | hwFrame r => exact .inr (.inl ⟨.inr ⟨r, rfl⟩, finishFrame_rxbFull _⟩)
  | envReset => exact .inr (.inr ⟨.inr rfl, rfl⟩)
  | _ => exact .inl rfl

/-- A step keeps clk_en, or it is ENV_CLK_ON and raises it, or ENV_RESET and lowers it (10_state.md
R29). -/
theorem after_clkEn_cases (s : State) (i : Instr) :
    (s.after i).clkEn = s.clkEn ∨ (i = .envClkOn ∧ (s.after i).clkEn = true) ∨
    (i = .envReset ∧ (s.after i).clkEn = false) := by
  cases i with
  | hwComplete => exact .inl (finishFrame_clkEn s)
  | hwFrame r => exact .inl (finishFrame_clkEn _)
  | envReset => exact .inr (.inr ⟨rfl, rfl⟩)
  | envClkOn => exact .inr (.inl ⟨rfl, rfl⟩)
  | _ => exact .inl rfl

/-- A step keeps pins_routed, or it is ENV_PINS and raises it, or ENV_RESET and lowers it
(10_state.md R29). -/
theorem after_pinsRouted_cases (s : State) (i : Instr) :
    (s.after i).pinsRouted = s.pinsRouted ∨ (i = .envPins ∧ (s.after i).pinsRouted = true) ∨
    (i = .envReset ∧ (s.after i).pinsRouted = false) := by
  cases i with
  | hwComplete => exact .inl (finishFrame_pinsRouted s)
  | hwFrame r => exact .inl (finishFrame_pinsRouted _)
  | envReset => exact .inr (.inr ⟨rfl, rfl⟩)
  | envPins => exact .inr (.inl ⟨rfl, rfl⟩)
  | _ => exact .inl rfl

end Sys2Proof.Machine

namespace Sys2Proof.Proofs

open Sys2Proof.Machine

/-- Settles O38: each full bit changes only in the cases of `after_txbFull_cases` and
`after_rxbFull_cases`, and the named steps leave the value of their update. -/
theorem onlyTheirStepsChangeTheFullBits : Obligations.OnlyTheirStepsChangeTheFullBits := by
  unfold Obligations.OnlyTheirStepsChangeTheFullBits
  refine ⟨fun i s t h => ?_, fun z v s t h => ?_, fun s t h => ?_, fun s t h => ?_,
    fun r s t h => ?_, fun z s t h => ?_, fun s t h => ?_⟩ <;> obtain ⟨o, rfl⟩ := exec_next h
  · obtain ⟨htSet, htClear⟩ := raised_and_lowered_only (after_txbFull_cases s i)
    obtain ⟨hrSet, hrClear⟩ := raised_and_lowered_only (after_rxbFull_cases s i)
    exact ⟨htSet, htClear, hrSet, hrClear⟩
  all_goals simp [State.after]

/-- Settles O39: each input of ENV changes only in the cases of `after_clkEn_cases` and
`after_pinsRouted_cases`, and the ENV steps leave the value of their update. -/
theorem onlyEnvChangesItsInputs : Obligations.OnlyEnvChangesItsInputs := by
  unfold Obligations.OnlyEnvChangesItsInputs
  refine ⟨fun i s t h => ?_, fun s t h => ?_, fun s t h => ?_, fun s t h => ?_, rfl, rfl⟩ <;>
    obtain ⟨o, rfl⟩ := exec_next h
  · obtain ⟨hcSet, hcClear⟩ := raised_and_lowered_only (after_clkEn_cases s i)
    obtain ⟨hpSet, hpClear⟩ := raised_and_lowered_only (after_pinsRouted_cases s i)
    exact ⟨hcSet, hcClear, hpSet, hpClear⟩
  all_goals simp [State.after]

end Sys2Proof.Proofs

/-! ## The fields of a step record

A record decodes to a step exactly where it has the fields of that step's format, and match and mask of
the opcode table read the same fields (spec/30_encoding.md rules R91 to R93, R100, R105). -/

namespace Sys2Proof

theorem twoBits_cases (b : BitVec 2) : b = 0b00#2 ∨ b = 0b01#2 ∨ b = 0b10#2 ∨ b = 0b11#2 := by
  revert b; decide

/-- The access that a format H record carries. -/
def accessOf (r : Record) : Access where
  we := r.getLsbD 45
  size := .ofBits (r.extractLsb' 43 2)
  offset := r.extractLsb' 32 10
  wdata := r.extractLsb' 0 32

/-- A format H record without a reserved bit, of an access in direction `we` at offset o. -/
def IsAccess (r : Record) (we : Bool) (o : Offset) : Prop :=
  r.extractLsb' 46 2 = 0b00#2 ∧ r.getLsbD 45 = we ∧ r.getLsbD 42 = false ∧ r.extractLsb' 32 10 = o

/-- A read carries no data. -/
def IsRead (r : Record) (o : Offset) : Prop := IsAccess r false o ∧ r.extractLsb' 0 32 = 0

/-- A format S record of the kind k with bits 43:8 clear. -/
def IsSeq (r : Record) (k : BitVec 2) : Prop :=
  r.extractLsb' 46 2 = 0b01#2 ∧ r.extractLsb' 44 2 = k ∧ r.extractLsb' 8 36 = 0

/-- A format E record of the kind k with bits 43:0 clear. -/
def IsEnv (r : Record) (k : BitVec 2) : Prop :=
  r.extractLsb' 46 2 = 0b10#2 ∧ r.extractLsb' 44 2 = k ∧ r.extractLsb' 0 44 = 0

/-- What the record of a step has in its fields, whatever the step's operands. -/
def HasFieldsOf (c : Config) (r : Record) : Instr → Prop
  | .rdCr _ => IsRead r c.offCr
  | .wrCr _ _ => IsAccess r true c.offCr
  | .rdSr _ => IsRead r c.offSr
  | .wrSr _ _ => IsAccess r true c.offSr
  | .rdDr _ => IsRead r c.offDr
  | .wrDr _ _ => IsAccess r true c.offDr
  | .hwLoad => IsSeq r 0b00#2 ∧ r.extractLsb' 0 8 = 0
  | .hwShift _ => IsSeq r 0b01#2 ∧ r.extractLsb' 1 7 = 0
  | .hwComplete => IsSeq r 0b10#2 ∧ r.extractLsb' 0 8 = 0
  | .hwFrame _ => IsSeq r 0b11#2
  | .envReset => IsEnv r 0b00#2
  | .envClkOn => IsEnv r 0b01#2
  | .envPins => IsEnv r 0b10#2

/-! ### The decoder over the fields -/

theorem decodeHost_eq (c : Config) (r : Record) :
    decodeHost c r =
      if r.getLsbD 42 = true then .invalid .hostBit42
      else if r.getLsbD 45 = false ∧ r.extractLsb' 0 32 ≠ 0 then .invalid .readWithData
      else ((decodeAccess c (accessOf r)).map .instr).getD (.noRegister (accessOf r)) := by
  have hread : (!r.getLsbD 45 && r.extractLsb' 0 32 != 0) = true ↔
      r.getLsbD 45 = false ∧ r.extractLsb' 0 32 ≠ 0 := by
    simp only [Bool.and_eq_true, Bool.not_eq_true', bne_iff_ne]
  simp only [decodeHost, hread, accessOf]
  generalize decodeAccess c _ = found
  cases found <;> rfl

/-- Format S, with the data bits read off the record itself. -/
theorem decodeSeq_eq (r : Record) :
    decodeSeq r =
      if r.extractLsb' 8 36 ≠ 0 then .invalid .seqNonzeroBits
      else if r.extractLsb' 44 2 = 0b00#2 then
        if r.extractLsb' 0 8 = 0 then .instr .hwLoad else .invalid .loadCompleteData
      else if r.extractLsb' 44 2 = 0b01#2 then
        if r.extractLsb' 1 7 = 0 then .instr (.hwShift (r.getLsbD 0)) else .invalid .shiftDataBits
      else if r.extractLsb' 44 2 = 0b10#2 then
        if r.extractLsb' 0 8 = 0 then .instr .hwComplete else .invalid .loadCompleteData
      else .instr (.hwFrame (r.extractLsb' 0 8)) := by
  have hdata : (r.extractLsb' 0 8).extractLsb' 1 7 = r.extractLsb' 1 7 :=
    BitVec.extractLsb'_extractLsb'_of_le (by decide)
  have hbit : (r.extractLsb' 0 8).getLsbD 0 = r.getLsbD 0 := by
    simp only [BitVec.getLsbD_extractLsb', Nat.zero_lt_succ, decide_true, Bool.true_and, Nat.zero_add]
  simp only [decodeSeq, hdata, hbit]

/-! ### The invalid records of each format (30_encoding.md R105) -/

theorem decodeHost_invalid_iff (c : Config) (r : Record) :
    (∃ why, decodeHost c r = .invalid why) ↔
      r.getLsbD 42 = true ∨ (r.getLsbD 45 = false ∧ r.extractLsb' 0 32 ≠ 0) := by
  rw [decodeHost_eq]
  split_ifs with hbit hread
  · exact iff_of_true ⟨_, rfl⟩ (.inl hbit)
  · exact iff_of_true ⟨_, rfl⟩ (.inr hread)
  · refine iff_of_false ?_ (not_or.2 ⟨hbit, hread⟩)
    cases decodeAccess c (accessOf r) <;> exact nofun

theorem decodeSeq_invalid_iff (r : Record) :
    (∃ why, decodeSeq r = .invalid why) ↔
      r.extractLsb' 8 36 ≠ 0 ∨ (r.extractLsb' 44 2 = 0b01#2 ∧ r.extractLsb' 1 7 ≠ 0) ∨
      ((r.extractLsb' 44 2 = 0b00#2 ∨ r.extractLsb' 44 2 = 0b10#2) ∧ r.extractLsb' 0 8 ≠ 0) := by
  rw [decodeSeq_eq]
  by_cases hzero : r.extractLsb' 8 36 = 0#36
  · rcases twoBits_cases (r.extractLsb' 44 2) with hk | hk | hk | hk
    · by_cases hdata : r.extractLsb' 0 8 = 0#8 <;> simp [hzero, hk, hdata]
    · by_cases hdata : r.extractLsb' 1 7 = 0#7 <;> simp [hzero, hk, hdata]
    · by_cases hdata : r.extractLsb' 0 8 = 0#8 <;> simp [hzero, hk, hdata]
    · simp [hzero, hk]
  · simp [hzero]

theorem decodeEnv_invalid_iff (r : Record) :
    (∃ why, decodeEnv r = .invalid why) ↔
      r.extractLsb' 44 2 = 0b11#2 ∨ r.extractLsb' 0 44 ≠ 0 := by
  simp only [decodeEnv]
  split_ifs with hreserved hzero
  · exact iff_of_true ⟨_, rfl⟩ (.inl hreserved)
  · exact iff_of_true ⟨_, rfl⟩ (.inr hzero)
  all_goals exact iff_of_false nofun (not_or.2 ⟨hreserved, hzero⟩)

/-! ### From a decoded step to the fields -/

theorem decodeHost_instr_iff {c : Config} {r : Record} {i : Instr} :
    decodeHost c r = .instr i ↔ r.getLsbD 42 = false ∧
      (r.getLsbD 45 = false → r.extractLsb' 0 32 = 0) ∧ decodeAccess c (accessOf r) = some i := by
  rw [decodeHost_eq]
  split_ifs with hbit hread
  · exact iff_of_false nofun fun ⟨h, _⟩ => Bool.eq_false_iff.1 h hbit
  · exact iff_of_false nofun fun ⟨_, h, _⟩ => hread.2 (h hread.1)
  · have hdata : r.getLsbD 45 = false → r.extractLsb' 0 32 = 0 :=
      fun hwe => not_not.1 fun hne => hread ⟨hwe, hne⟩
    rw [and_iff_right (Bool.eq_false_iff.2 hbit), and_iff_right hdata]
    cases decodeAccess c (accessOf r) <;> simp

theorem hasFieldsOf_of_decodeHost {c : Config} {r : Record} {i : Instr}
    (ha : r.extractLsb' 46 2 = 0b00#2) (h : decodeHost c r = .instr i) : HasFieldsOf c r i := by
  obtain ⟨hbit, hdata, hacc⟩ := decodeHost_instr_iff.1 h
  have hwrite : ∀ {o}, (accessOf r).we = true → (accessOf r).offset = o → IsAccess r true o :=
    fun hwe ho => ⟨ha, hwe, hbit, ho⟩
  have hread : ∀ {o}, ¬(accessOf r).we = true → (accessOf r).offset = o → IsRead r o :=
    fun hwe ho => have hwe := Bool.eq_false_iff.2 hwe; ⟨⟨ha, hwe, hbit, ho⟩, hdata hwe⟩
  unfold decodeAccess at hacc
  split_ifs at hacc with hcr hwe hsr hwe hdr hwe <;> cases hacc
  · exact hwrite hwe hcr
  · exact hread hwe hcr
  · exact hwrite hwe hsr
  · exact hread hwe hsr
  · exact hwrite hwe hdr
  · exact hread hwe hdr

theorem hasFieldsOf_of_decodeSeq {c : Config} {r : Record} {i : Instr}
    (ha : r.extractLsb' 46 2 = 0b01#2) (h : decodeSeq r = .instr i) : HasFieldsOf c r i := by
  rw [decodeSeq_eq] at h
  split_ifs at h with hzero hload hdata hshift hdata hcomplete hdata <;> cases h
  · exact ⟨⟨ha, hload, not_not.1 hzero⟩, hdata⟩
  · exact ⟨⟨ha, hshift, not_not.1 hzero⟩, hdata⟩
  · exact ⟨⟨ha, hcomplete, not_not.1 hzero⟩, hdata⟩
  · have hframe := (((twoBits_cases _).resolve_left hload).resolve_left hshift).resolve_left hcomplete
    exact ⟨ha, hframe, not_not.1 hzero⟩

theorem hasFieldsOf_of_decodeEnv {c : Config} {r : Record} {i : Instr}
    (ha : r.extractLsb' 46 2 = 0b10#2) (h : decodeEnv r = .instr i) : HasFieldsOf c r i := by
  simp only [decodeEnv] at h
  split_ifs at h with hreserved hzero hreset hclkOn <;> cases h
  · exact ⟨ha, hreset, not_not.1 hzero⟩
  · exact ⟨ha, hclkOn, not_not.1 hzero⟩
  · have hpins := (((twoBits_cases _).resolve_left hreset).resolve_left hclkOn).resolve_right hreserved
    exact ⟨ha, hpins, not_not.1 hzero⟩

theorem hasFieldsOf_of_decode {c : Config} {r : Record} {i : Instr} (h : decode c r = .instr i) :
    HasFieldsOf c r i := by
  simp only [decode] at h
  split_ifs at h with hhost hseq henv
  · exact hasFieldsOf_of_decodeHost hhost h
  · exact hasFieldsOf_of_decodeSeq hseq h
  · exact hasFieldsOf_of_decodeEnv henv h

/-! ### From the fields to a decoded step -/

section
variable {c : Config} (hc : c.OffsetsWF) (we : Bool) (z : AccessSize) (v : Word)

theorem decodeAccess_offCr :
    decodeAccess c ⟨we, z, c.offCr, v⟩ = some (if we then .wrCr z v else .rdCr z) :=
  if_pos rfl

include hc

theorem decodeAccess_offSr :
    decodeAccess c ⟨we, z, c.offSr, v⟩ = some (if we then .wrSr z v else .rdSr z) := by
  obtain ⟨hcrsr, -⟩ := hc
  simp [decodeAccess, hcrsr.symm]

theorem decodeAccess_offDr :
    decodeAccess c ⟨we, z, c.offDr, v⟩ = some (if we then .wrDr z v else .rdDr z) := by
  obtain ⟨-, hcrdr, hsrdr, -⟩ := hc
  simp [decodeAccess, hcrdr.symm, hsrdr.symm]

end

theorem decode_of_isAccess {c : Config} {r : Record} {we : Bool} {o : Offset} {i : Instr}
    (h : IsAccess r we o) (hdata : we = false → r.extractLsb' 0 32 = 0)
    (hacc : decodeAccess c ⟨we, .ofBits (r.extractLsb' 43 2), o, r.extractLsb' 0 32⟩ = some i) :
    decode c r = .instr i := by
  obtain ⟨ha, rfl, hbit, rfl⟩ := h
  simp only [decode, ha, if_true]
  exact decodeHost_instr_iff.2 ⟨hbit, hdata, hacc⟩

theorem decode_of_isSeq {c : Config} {r : Record} {k : BitVec 2} (h : IsSeq r k) :
    decode c r = decodeSeq r := by
  simp [decode, h.1]

theorem decode_of_isEnv {c : Config} {r : Record} {k : BitVec 2} (h : IsEnv r k) :
    decode c r = if k = 0b11#2 then .invalid .envReservedKind else if k = 0b00#2 then .instr .envReset
      else if k = 0b01#2 then .instr .envClkOn else .instr .envPins := by
  obtain ⟨ha, rfl, hzero⟩ := h
  simp [decode, decodeEnv, ha, hzero]

/-- A record with the fields of a step decodes to a step of the same row: only operands differ. -/
theorem exists_decode_of_hasFieldsOf {c : Config} (hc : c.OffsetsWF) {r : Record} {i : Instr}
    (h : HasFieldsOf c r i) : ∃ j, decode c r = .instr j ∧ tableRow j = tableRow i := by
  cases i with
  | rdCr => exact ⟨_, decode_of_isAccess h.1 (fun _ => h.2) (decodeAccess_offCr ..), rfl⟩
  | wrCr => exact ⟨_, decode_of_isAccess h nofun (decodeAccess_offCr ..), rfl⟩
  | rdSr => exact ⟨_, decode_of_isAccess h.1 (fun _ => h.2) (decodeAccess_offSr hc ..), rfl⟩
  | wrSr => exact ⟨_, decode_of_isAccess h nofun (decodeAccess_offSr hc ..), rfl⟩
  | rdDr => exact ⟨_, decode_of_isAccess h.1 (fun _ => h.2) (decodeAccess_offDr hc ..), rfl⟩
  | wrDr => exact ⟨_, decode_of_isAccess h nofun (decodeAccess_offDr hc ..), rfl⟩
  | hwLoad =>
    obtain ⟨hseq, hdata⟩ := h
    exact ⟨.hwLoad, by simp [decode_of_isSeq hseq, decodeSeq_eq, hseq.2, hdata], rfl⟩
  | hwShift =>
    obtain ⟨hseq, hdata⟩ := h
    exact ⟨.hwShift (r.getLsbD 0), by simp [decode_of_isSeq hseq, decodeSeq_eq, hseq.2, hdata], rfl⟩
  | hwComplete =>
    obtain ⟨hseq, hdata⟩ := h
    exact ⟨.hwComplete, by simp [decode_of_isSeq hseq, decodeSeq_eq, hseq.2, hdata], rfl⟩
  | hwFrame =>
    exact ⟨.hwFrame (r.extractLsb' 0 8), by simp [decode_of_isSeq h, decodeSeq_eq, h.2], rfl⟩
  | envReset => exact ⟨.envReset, decode_of_isEnv h, rfl⟩
  | envClkOn => exact ⟨.envClkOn, decode_of_isEnv h, rfl⟩
  | envPins => exact ⟨.envPins, decode_of_isEnv h, rfl⟩

/-! ### Match and mask (30_encoding.md R100) -/

theorem extractLsb'_low44_eq_iff {r q : Record} : r.extractLsb' 0 44 = q.extractLsb' 0 44 ↔
    r.extractLsb' 8 36 = q.extractLsb' 8 36 ∧ r.extractLsb' 0 8 = q.extractLsb' 0 8 := by
  have hpart (x : Record) {p w : Nat} (h : p + w ≤ 44) :
      x.extractLsb' p w = (x.extractLsb' 0 44).extractLsb' p w :=
    (BitVec.extractLsb'_extractLsb'_of_le h).symm
  have hwhole (x : Record) : x.extractLsb' 0 44 = x.extractLsb' 8 36 ++ x.extractLsb' 0 8 :=
    (BitVec.extractLsb'_append_extractLsb'_eq_extractLsb' (start₁ := 0) (len₁ := 8) (len₂ := 36)
      rfl).symm
  constructor
  · intro h
    simp only [hpart _ (show 8 + 36 ≤ 44 by decide), hpart _ (show 0 + 8 ≤ 44 by decide), h, and_self]
  · rintro ⟨hhigh, hlow⟩
    rw [hwhole, hwhole, hhigh, hlow]

/-- Masking compares field by field, here by the fields of format H. -/
theorem and_eq_iff_host {r m v : Record} : r &&& m = v ↔
    r.extractLsb' 46 2 &&& m.extractLsb' 46 2 = v.extractLsb' 46 2 ∧
    (r.getLsbD 45 && m.getLsbD 45) = v.getLsbD 45 ∧
    r.extractLsb' 43 2 &&& m.extractLsb' 43 2 = v.extractLsb' 43 2 ∧
    (r.getLsbD 42 && m.getLsbD 42) = v.getLsbD 42 ∧
    r.extractLsb' 32 10 &&& m.extractLsb' 32 10 = v.extractLsb' 32 10 ∧
    r.extractLsb' 0 32 &&& m.extractLsb' 0 32 = v.extractLsb' 0 32 := by
  simp only [← BitVec.extractLsb'_and, ← BitVec.getLsbD_and]
  constructor
  · rintro rfl
    simp only [and_self]
  · exact fun ⟨h1, h2, h3, h4, h5, h6⟩ => record_ext_host h1 h2 h3 h4 h5 h6

/-- Masking compares field by field, here by the fields of format E. -/
theorem and_eq_iff_env {r m v : Record} : r &&& m = v ↔
    r.extractLsb' 46 2 &&& m.extractLsb' 46 2 = v.extractLsb' 46 2 ∧
    r.extractLsb' 44 2 &&& m.extractLsb' 44 2 = v.extractLsb' 44 2 ∧
    r.extractLsb' 0 44 &&& m.extractLsb' 0 44 = v.extractLsb' 0 44 := by
  simp only [← BitVec.extractLsb'_and]
  constructor
  · rintro rfl
    simp only [and_self]
  · exact fun ⟨h1, h2, h3⟩ => record_ext_kind h1 h2 h3

/-- Masking compares field by field, here by the fields of format S. -/
theorem and_eq_iff_seq {r m v : Record} : r &&& m = v ↔
    r.extractLsb' 46 2 &&& m.extractLsb' 46 2 = v.extractLsb' 46 2 ∧
    r.extractLsb' 44 2 &&& m.extractLsb' 44 2 = v.extractLsb' 44 2 ∧
    r.extractLsb' 8 36 &&& m.extractLsb' 8 36 = v.extractLsb' 8 36 ∧
    r.extractLsb' 0 8 &&& m.extractLsb' 0 8 = v.extractLsb' 0 8 := by
  rw [and_eq_iff_env]
  simp only [← BitVec.extractLsb'_and, extractLsb'_low44_eq_iff]

/-- A field that the mask takes whole. -/
theorem and_of_eq_allOnes {w : Nat} {x m : BitVec w} (h : m = BitVec.allOnes w) : x &&& m = x := by
  rw [h, BitVec.and_allOnes]

/-- The mask of HW_SHIFT leaves out the data bit. -/
theorem and_shiftMask_eq_zero_iff (r : Record) :
    r.extractLsb' 0 8 &&& 0xFE#8 = 0#8 ↔ r.extractLsb' 1 7 = 0#7 := by
  have hbyte : ∀ d : Byte, d &&& 0xFE#8 = 0#8 ↔ d.extractLsb' 1 7 = 0#7 := by decide
  rw [hbyte, BitVec.extractLsb'_extractLsb'_of_le (by decide)]

/-- A record selects a row of the opcode table exactly where it has the fields of its step. -/
theorem selectsRowOf_iff {r : Record} {i : Instr} :
    SelectsRowOf r i ↔ HasFieldsOf .default r i := by
  cases i with
  | rdCr | rdSr | rdDr =>
    simp only [SelectsRowOf, tableRow, and_eq_iff_host]
    simp [HasFieldsOf, IsRead, IsAccess, Config.default, and_of_eq_allOnes, and_assoc]
  | wrCr | wrSr | wrDr =>
    simp only [SelectsRowOf, tableRow, and_eq_iff_host]
    simp [HasFieldsOf, IsAccess, Config.default, and_of_eq_allOnes]
  | hwLoad | hwComplete | hwFrame | hwShift =>
    simp only [SelectsRowOf, tableRow, and_eq_iff_seq]
    simp [HasFieldsOf, IsSeq, and_of_eq_allOnes, and_shiftMask_eq_zero_iff, and_assoc]
  | envReset | envClkOn | envPins =>
    simp only [SelectsRowOf, tableRow, and_eq_iff_env]
    simp [HasFieldsOf, IsEnv, and_of_eq_allOnes]

end Sys2Proof

/-! ## A size that is not admitted -/

namespace Sys2Proof.Machine

/-- Every HOST step begins with the checks common to all of them (41_register_ops.md R145). -/
theorem exec_eq_hostStep {i : Instr} {z : AccessSize} (h : i.size? = some z) (s : State) :
    ∃ k, exec i s = hostStep (encode s.cfg i) z s k := by
  cases i <;> cases h <;> exact ⟨_, rfl⟩

theorem hostStep_badAccessSize {record : Record} {z : AccessSize} {s : State} {k : State → Result}
    (hc : s.clkEn = true) (hz : z.admitted = false) :
    hostStep record z s k = .refused .badAccessSize := by
  simp [hostStep, hc, hz]

theorem not_admitted {z : AccessSize} (hh : z ≠ .half) (hw : z ≠ .word) : z.admitted = false := by
  cases z with
  | byte | reserved => rfl
  | half => exact absurd rfl hh
  | word => exact absurd rfl hw

end Sys2Proof.Machine

namespace Sys2Proof.Proofs

open Sys2Proof.Machine

/-- Settles O4: decoding and selecting both say which fields the record has (`hasFieldsOf_of_decode`,
`selectsRowOf_iff`). -/
theorem recordDecodesWhereItSelectsARow : Obligations.RecordDecodesWhereItSelectsARow := by
  unfold Obligations.RecordDecodesWhereItSelectsARow
  refine ⟨fun r i h => selectsRowOf_iff.2 (hasFieldsOf_of_decode h),
    fun r i h => exists_decode_of_hasFieldsOf (by decide) (selectsRowOf_iff.1 h),
    fun i z s hsize hh hw hc => ?_, by decide⟩
  obtain ⟨k, hk⟩ := exec_eq_hostStep hsize s
  rw [hk, hostStep_badAccessSize hc (not_admitted hh hw)]

/-- Settles O5: the agent chooses the format, and each format has its own list. -/
theorem reservedRecordsAreTheInvalidOnes : Obligations.ReservedRecordsAreTheInvalidOnes := by
  unfold Obligations.ReservedRecordsAreTheInvalidOnes
  intro c r
  rw [← decodeHost_invalid_iff c, ← decodeSeq_invalid_iff, ← decodeEnv_invalid_iff]
  unfold decode
  rcases twoBits_cases (r.extractLsb' 46 2) with h | h | h | h <;> simp [h]

end Sys2Proof.Proofs

/-! ## Control words under any layout with disjoint fields

What the bits of CW(d) and EW(d) say of their fields, and that no reserved bit is set
(spec/30_encoding.md rules R97, R98, R103). -/

namespace Sys2Proof.Machine

/-- A code that fits a field of w bits has no bit from w up. -/
theorem testBit_of_fits {d w k : Nat} (hd : d < 2 ^ w) (hk : w ≤ k) : d.testBit k = false :=
  Nat.testBit_lt_two_pow (hd.trans_le (Nat.pow_le_pow_right (by decide) hk))

/-- Outside the divisor field a control word carries its three one-bit fields and no bit of the
code. -/
theorem controlWord_getLsbD_of_outsideBr {c : Config} {d : Nat} (hd : d < 2 ^ c.brw.val) {p : Fin 16}
    (hp : c.OutsideBr p) :
    (controlWord c d).getLsbD p.val = decide (p = c.crSsm ∨ p = c.crSsi ∨ p = c.crMstr) := by
  have hcode : (decide (p.val < 16 ∧ c.crBrLo.val ≤ p.val) && d.testBit (p.val - c.crBrLo.val)) =
      false := by
    rcases hp with hlow | hhigh
    · simp [Nat.not_le.2 hlow]
    · rw [testBit_of_fits hd (by omega), Bool.and_false]
  rw [controlWord_getLsbD, hcode]
  simp [Fin.ext_iff, Bool.or_assoc]

/-- The divisor field of a control word holds the code unscaled: none of the one-bit fields stands in
it (30_encoding.md R97). -/
theorem br_controlWord {c : Config} {d : Nat} (h : c.CrWF) (hd : d < 2 ^ c.brw.val) :
    br c (controlWord c d) = d := by
  obtain ⟨-, -, -, -, -, -, hMstr, -, hSsi, hSsm, -, -, -, -, hfield⟩ := h
  have hreg := c.regw.isLt
  apply Nat.eq_of_testBit_eq
  intro k
  rw [br, Nat.testBit_mod_two_pow, ← BitVec.getLsbD, BitVec.getLsbD_ushiftRight, controlWord_getLsbD]
  by_cases hk : k < c.brw.val
  · have hne : ∀ p : Fin 16, c.OutsideBr p → c.crBrLo.val + k ≠ p.val := by
      intro p hp; rcases hp with hp | hp <;> omega
    simp [hk, hne _ hMstr, hne _ hSsi, hne _ hSsm, show c.crBrLo.val + k < 16 by omega]
  · simp [hk, testBit_of_fits hd (Nat.not_lt.1 hk)]

/-- No reserved bit: every bit set is an implemented one (30_encoding.md R103). -/
theorem hasReservedCrBit_eq_false_iff {c : Config} {n : Half} :
    hasReservedCrBit c n = false ↔ ∀ j, n.getLsbD j = true → c.crImpl.getLsbD j = true := by
  rw [hasReservedCrBit, bne_eq_false_iff_eq, BitVec.eq_of_getLsbD_eq_iff]
  refine forall_congr' fun j => ?_
  rw [BitVec.getLsbD_and, BitVec.getLsbD_not]
  by_cases hj : j < 16
  · cases n.getLsbD j <;> cases c.crImpl.getLsbD j <;> simp [hj]
  · simp [hj, BitVec.getLsbD_of_ge n j (by omega)]

/-- The implemented bits of CR: the four one-bit fields and the divisor field (00_scope.md R11). -/
theorem crImpl_getLsbD_eq_true_iff (c : Config) (j : Nat) :
    c.crImpl.getLsbD j = true ↔ j = c.crMstr.val ∨
      (j < 16 ∧ c.crBrLo.val ≤ j ∧ j < c.crBrLo.val + c.brw.val) ∨ j = c.crSsi.val ∨
      j = c.crSsm.val ∨ j = c.crSpe.val := by
  simp [Config.crImpl, Config.crMode, Config.crEn, or_assoc]

/-- Every bit of an enable word is implemented. -/
theorem enableWord_noReservedBit {c : Config} {d : Nat} (hd : d < 2 ^ c.brw.val) :
    hasReservedCrBit c (enableWord c d) = false := by
  rw [hasReservedCrBit_eq_false_iff]
  intro j hj
  rw [crImpl_getLsbD_eq_true_iff]
  simp only [enableWord_getLsbD, controlWord_getLsbD, Bool.or_eq_true, Bool.and_eq_true,
    decide_eq_true_eq] at hj
  obtain (((hSsm | hSsi) | ⟨⟨hj16, hlo⟩, hcode⟩) | hMstr) | hSpe := hj
  · exact .inr (.inr (.inr (.inl hSsm)))
  · exact .inr (.inr (.inl hSsi))
  · have hfit : j - c.crBrLo.val < c.brw.val := by
      by_contra hk
      simp [testBit_of_fits hd (Nat.not_lt.1 hk)] at hcode
    exact .inr (.inl ⟨hj16, hlo, by omega⟩)
  · exact .inl hMstr
  · exact .inr (.inr (.inr (.inr hSpe)))

/-- Every bit of a control word is one of its enable word, so implemented. -/
theorem controlWord_noReservedBit {c : Config} {d : Nat} (hd : d < 2 ^ c.brw.val) :
    hasReservedCrBit c (controlWord c d) = false := by
  have hEnable := hasReservedCrBit_eq_false_iff.1 (enableWord_noReservedBit hd)
  exact hasReservedCrBit_eq_false_iff.2 fun j hj => hEnable j (by simp [enableWord_getLsbD, hj])

end Sys2Proof.Machine

namespace Sys2Proof.Proofs

open Sys2Proof.Machine

/-- Settles O48: the fields are read off the words' bits, and the eight values of each word are
computed. -/
theorem controlAndEnableWordsHoldTheirFields :
    Obligations.ControlAndEnableWordsHoldTheirFields := by
  unfold Obligations.ControlAndEnableWordsHoldTheirFields
  refine ⟨fun c d h hd => ?_, by decide, by decide, by decide⟩
  have ⟨hMstrSpe, _, _, hSpeSsi, hSpeSsm, _, hMstr, hSpe, hSsi, hSsm, _⟩ := h
  refine ⟨?_, ?_, ?_, br_controlWord h hd, ?_, controlWord_noReservedBit hd, rfl, rfl, ?_,
    enableWord_noReservedBit hd⟩
  · simp [mstr, controlWord_getLsbD_of_outsideBr hd hMstr]
  · simp [ssm, controlWord_getLsbD_of_outsideBr hd hSsm]
  · simp [ssi, controlWord_getLsbD_of_outsideBr hd hSsi]
  · rw [spe, controlWord_getLsbD_of_outsideBr hd hSpe]
    simp [hSpeSsm, hSpeSsi, hMstrSpe.symm]
  · simp [spe, enableWord_getLsbD]

end Sys2Proof.Proofs

/-! ## The clock: the checks that come first, and the step that turns it on

The order of the checks common to every HOST step (spec/40_clock_pin_gating.md rule R133,
spec/30_encoding.md rule R102), and ENV_CLK_ON (R131). -/

namespace Sys2Proof.Machine

theorem hostStep_unclocked {record : Record} {z : AccessSize} {s : State} {k : State → Result}
    (hc : s.clkEn = false) : hostStep record z s k = .fault (.unclockedAccess record) := by
  simp [hostStep, hc]

/-- The clock decides alone, and once it is on the size does, whatever the step's own rule k says
(60_exceptions.md R237). -/
theorem hostStep_clock_then_size (record : Record) (z : AccessSize) (s : State)
    (k : State → Result) :
    (s.clkEn = false → hostStep record z s k = .fault (.unclockedAccess record)) ∧
    (s.clkEn = true → z = .byte ∨ z = .reserved → hostStep record z s k = .refused .badAccessSize) := by
  refine ⟨hostStep_unclocked, fun hc hz => hostStep_badAccessSize hc ?_⟩
  rcases hz with rfl | rfl <;> rfl

theorem exec_envClkOn (s : State) : exec .envClkOn s = done s.clockOn := rfl

end Sys2Proof.Machine

namespace Sys2Proof.Proofs

open Sys2Proof.Machine

/-- Settles O10: every HOST step, and the access that hits no register, is a `hostStep` with a rule of
its own. -/
theorem clockThenSizeAreCheckedFirst : Obligations.ClockThenSizeAreCheckedFirst := by
  unfold Obligations.ClockThenSizeAreCheckedFirst
  refine ⟨fun i z s hsize => ?_, fun a s => hostStep_clock_then_size (encodeAccess a) a.size s _⟩
  obtain ⟨k, hk⟩ := exec_eq_hostStep hsize s
  rw [hk]
  exact hostStep_clock_then_size (encode s.cfg i) z s k

/-- Settles O32: the record has the fields of ENV_CLK_ON, the step is its update `clockOn`, and in the
trace the read of SR then finds the clock on. -/
theorem envClkOnTurnsTheClockOn : Obligations.EnvClkOnTurnsTheClockOn := by
  unfold Obligations.EnvClkOnTurnsTheClockOn
  have hrecord : IsEnv 0x9000_0000_0000 0b01#2 := ⟨by decide, by decide, by decide⟩
  have hsr : busOfHalf .default (srView State.reset.clockOn) = 0x0002 := by decide
  have hread : exec (.rdSr .word) (State.reset.clockOn.withOutput .nothing) =
      .next (State.reset.clockOn.withOutput (.readValue 0x0002)) := by
    rw [execRdSr_word rfl, ← hsr]
    rfl
  exact ⟨decode_of_isEnv hrecord, exec_envClkOn,
    execTrace_cons_next (exec_envClkOn .reset) (execTrace_cons_next hread (execTrace_nil _))⟩

end Sys2Proof.Proofs

/-! ## An offset that holds no register

What the address decoder and the step answer there (spec/41_register_ops.md rule R152,
spec/30_encoding.md rule R101). -/

namespace Sys2Proof

theorem decodeAccess_eq_none {c : Config} {a : Access} (hcr : a.offset ≠ c.offCr)
    (hsr : a.offset ≠ c.offSr) (hdr : a.offset ≠ c.offDr) : decodeAccess c a = none := by
  simp [decodeAccess, hcr, hsr, hdr]

/-- The record of an access that hits no register is valid: a read's data bits are 0. -/
theorem decode_encodeAccess_noRegister {c : Config} {a : Access} (hdata : a.we = false → a.wdata = 0)
    (hnone : decodeAccess c a = none) : decode c (encodeAccess a) = .noRegister a := by
  have hvalid : (!a.we && a.wdata != 0) = false := by
    cases hwe : a.we with
    | false => simp [hdata hwe]
    | true => rfl
  rw [decode_encodeAccess, hvalid, hnone]
  rfl

/-- The defaults place registers at 0, 8 and 12 only (00_scope.md R10). -/
theorem offset_default_cases {o : Offset}
    (h : o = Config.default.offCr ∨ o = Config.default.offSr ∨ o = Config.default.offDr) :
    o.toNat = 0 ∨ o.toNat = 8 ∨ o.toNat = 12 := by
  rcases h with rfl | rfl | rfl
  · exact .inl rfl
  · exact .inr (.inl rfl)
  · exact .inr (.inr rfl)

end Sys2Proof

namespace Sys2Proof.Machine

theorem takeRecord_of_noRegister {r : Record} {a : Access} {s : State}
    (h : decode s.cfg r = .noRegister a) : takeRecord r s = execNoRegister a s := by
  simp [takeRecord, h]

theorem execNoRegister_refused {a : Access} {s : State} (hc : s.clkEn = true)
    (hz : a.size.admitted = true) : execNoRegister a s = .refused .reservedOffset :=
  hostStep_pass hc hz

theorem admitted_of_half_or_word {z : AccessSize} (h : z = .half ∨ z = .word) :
    z.admitted = true := by
  rcases h with rfl | rfl <;> rfl

end Sys2Proof.Machine

namespace Sys2Proof.Proofs

open Sys2Proof.Machine

/-- Settles O6: the three comparisons of the address decoder fail, and of the checks of a HOST step
only the offset is left to refuse. -/
theorem otherOffsetsHoldNoRegister : Obligations.OtherOffsetsHoldNoRegister := by
  unfold Obligations.OtherOffsetsHoldNoRegister
  refine ⟨fun s a hcr hsr hdr hdata => ?_, fun o ho => ?_, by decide⟩
  · have hdecode : decode s.cfg (encodeAccess a) = .noRegister a :=
      decode_encodeAccess_noRegister hdata (decodeAccess_eq_none hcr hsr hdr)
    refine ⟨hdecode, fun hc hz => ?_⟩
    rw [takeRecord_of_noRegister hdecode, execNoRegister_refused hc (admitted_of_half_or_word hz)]
  · have hother : ¬ (o = Config.default.offCr ∨ o = Config.default.offSr ∨
        o = Config.default.offDr) := by
      intro h
      have hoffset := offset_default_cases h
      omega
    simpa only [not_or] using hother

end Sys2Proof.Proofs

/-! ## Reset, and what the registers read after it

The flags that ENV_RESET leaves, and the reads that follow once the clock is on
(spec/70_reset_and_hazards.md rule R260). -/

namespace Sys2Proof.Machine

theorem exec_envReset (s : State) : exec .envReset s = done s.resetRegisters := rfl

/-- While the block waits with nothing staged and nothing unread, TXE alone reads 1. -/
theorem srView_eq_bit_srTxe {s : State} (hphase : s.phase = .idle) (htxb : s.txbFull = false)
    (hrxb : s.rxbFull = false) : srView s = Config.bit s.cfg.srTxe := by
  apply BitVec.eq_of_getLsbD_eq
  intro j _
  rw [srView_getLsbD, Config.bit_getLsbD]
  simp [bsy, txe, rxne, hphase, htxb, hrxb]

/-- A bus of any width carries 0 as 0. -/
theorem busOfHalf_zero (c : Config) : busOfHalf c 0 = 0 := by
  apply BitVec.eq_of_getLsbD_eq
  intro j _
  simp [busOfHalf_getLsbD]

/-- A clocked read of CR with 4 bytes. -/
theorem execRdCr_word {s : State} (h : s.clkEn = true) :
    exec (.rdCr .word) s = .next (s.withOutput (.readValue (busOfHalf s.cfg s.cr))) :=
  (hostStep_pass (record := encode s.cfg (.rdCr .word)) h rfl).trans rfl

/-- After a reset and the clock, CR reads 0 and SR reads TXE alone, under any layout. -/
theorem execTrace_reset_clock_reads (s : State) :
    ∃ t, execTrace [.envReset, .envClkOn, .rdCr .word, .rdSr .word] s =
      .next ([.nothing, .nothing, .readValue 0,
        .readValue (busOfHalf s.cfg (Config.bit s.cfg.srTxe))], t) := by
  have hcr (u : State) (hclk : u.clkEn = true) (hzero : u.cr = 0) :
      exec (.rdCr .word) u = .next (u.withOutput (.readValue 0)) := by
    rw [execRdCr_word hclk, hzero, busOfHalf_zero]
  have hsr (u : State) (hclk : u.clkEn = true) (hphase : u.phase = .idle)
      (htxb : u.txbFull = false) (hrxb : u.rxbFull = false) : exec (.rdSr .word) u =
        .next (u.withOutput (.readValue (busOfHalf u.cfg (Config.bit u.cfg.srTxe)))) := by
    rw [execRdSr_word hclk, srView_eq_bit_srTxe hphase htxb hrxb]
  exact ⟨_, execTrace_cons_next (exec_envReset s) <| execTrace_cons_next (exec_envClkOn _) <|
    execTrace_cons_next (hcr _ rfl rfl) <| execTrace_cons_next (hsr _ rfl rfl rfl rfl) <|
    execTrace_nil _⟩

end Sys2Proof.Machine

namespace Sys2Proof.Proofs

open Sys2Proof.Machine

/-- Settles O35: the record has the fields of ENV_RESET, the step is its update `resetRegisters`, whose
free values are the four unspecified elements, and the reads after it are those of
`execTrace_reset_clock_reads`. -/
theorem envResetRestoresTheResetValues : Obligations.EnvResetRestoresTheResetValues := by
  unfold Obligations.EnvResetRestoresTheResetValues
  have hrecord : IsEnv 0x8000_0000_0000 0b00#2 := ⟨by decide, by decide, by decide⟩
  have hsr : busOfHalf .default (Config.bit Config.default.srTxe) = 0x0002 := by decide
  refine ⟨decode_of_isEnv hrecord, fun s => ⟨_, _, _, _, s.cfg.cpol, exec_envReset s, id⟩,
    fun s t h => ?_, ⟨_, _, _, _, exec_envReset .reset⟩, fun s hs => ?_⟩
  · obtain rfl := execEnvReset_next h
    simp [txe, rxne, bsy]
  · obtain ⟨t, ht⟩ := execTrace_reset_clock_reads s
    rw [hs, hsr] at ht
    exact ⟨t, ht⟩

end Sys2Proof.Proofs

/-! ## Records and steps, there and back

Decoding the record of a step gives the step, encoding a decoded step gives the record, and an
address of the window gives its offset (spec/30_encoding.md rules R91 to R93, spec/20_memory.md
rules R60 to R62). -/

namespace Sys2Proof

/-- An access at a register's offset decodes to the step that the address decoder chooses: a read
carries no data. -/
theorem decode_encodeAccess_of_some {c : Config} {a : Access} {i : Instr}
    (hdata : a.we = false → a.wdata = 0) (hacc : decodeAccess c a = some i) :
    decode c (encodeAccess a) = .instr i := by
  have hvalid : (!a.we && a.wdata != 0) = false := by
    cases hwe : a.we with
    | false => simp [hdata hwe]
    | true => rfl
  rw [decode_encodeAccess, hvalid, hacc]
  rfl

theorem decode_encode {c : Config} (hc : c.OffsetsWF) (i : Instr) :
    decode c (encode c i) = .instr i := by
  cases i with
  | rdCr z => exact decode_encodeAccess_of_some (fun _ => rfl) (decodeAccess_offCr ..)
  | wrCr z v => exact decode_encodeAccess_of_some nofun (decodeAccess_offCr ..)
  | rdSr z => exact decode_encodeAccess_of_some (fun _ => rfl) (decodeAccess_offSr hc ..)
  | wrSr z v => exact decode_encodeAccess_of_some nofun (decodeAccess_offSr hc ..)
  | rdDr z => exact decode_encodeAccess_of_some (fun _ => rfl) (decodeAccess_offDr hc ..)
  | wrDr z v => exact decode_encodeAccess_of_some nofun (decodeAccess_offDr hc ..)
  | hwShift m =>
    have hpad : ((BitVec.ofBool m).setWidth 8).extractLsb' 1 7 = 0#7 ∧
        ((BitVec.ofBool m).setWidth 8).getLsbD 0 = m := by cases m <;> decide
    simp [encode, decode_encodeSeq, hpad]
  | hwLoad | hwComplete | hwFrame r => simp [encode, decode_encodeSeq]
  | envReset | envClkOn | envPins => simp [encode, decode_encodeEnv]

/-- A format H record without the reserved bit is the record of its access. -/
theorem encodeAccess_accessOf {r : Record} (ha : r.extractLsb' 46 2 = 0b00#2)
    (hbit : r.getLsbD 42 = false) : encodeAccess (accessOf r) = r := by
  have hsize : (encodeAccess (accessOf r)).extractLsb' 43 2 = r.extractLsb' 43 2 :=
    (encodeAccess_size _).trans (AccessSize.toBits_ofBits _)
  exact record_ext_host ((encodeAccess_agent _).trans ha.symm) (encodeAccess_we _) hsize
    ((encodeAccess_zero _).trans hbit.symm) (encodeAccess_offset _) (encodeAccess_wdata _)

theorem encode_of_decodeAccess {c : Config} {a : Access} {i : Instr}
    (hdata : a.we = false → a.wdata = 0) (h : decodeAccess c a = some i) :
    encode c i = encodeAccess a := by
  obtain ⟨we, z, o, v⟩ := a
  cases we with
  | true =>
    simp only [decodeAccess, if_true] at h
    split_ifs at h with ho ho ho <;> cases h <;> simp only [encode, ho]
  | false =>
    obtain rfl : v = 0 := hdata rfl
    simp only [decodeAccess, Bool.false_eq_true, if_false] at h
    split_ifs at h with ho ho ho <;> cases h <;> simp only [encode, ho]

/-- A format S record with bits 43:8 clear is the record of its kind and data. -/
theorem encodeSeq_of_isSeq {r : Record} {k : BitVec 2} (h : IsSeq r k) :
    encodeSeq k (r.extractLsb' 0 8) = r := by
  obtain ⟨ha, rfl, hzero⟩ := h
  exact record_ext_kind ((encodeSeq_agent ..).trans ha.symm) (encodeSeq_kind ..)
    (extractLsb'_low44_eq_iff.2 ⟨(encodeSeq_zero ..).trans hzero.symm, encodeSeq_data ..⟩)

/-- A format E record with bits 43:0 clear is the record of its kind. -/
theorem encodeEnv_of_isEnv {r : Record} {k : BitVec 2} (h : IsEnv r k) : encodeEnv k = r := by
  obtain ⟨ha, rfl, hzero⟩ := h
  exact record_ext_kind ((encodeEnv_agent _).trans ha.symm) (encodeEnv_kind _)
    ((encodeEnv_zero _).trans hzero.symm)

theorem encode_of_decodeHost {c : Config} {r : Record} {i : Instr}
    (ha : r.extractLsb' 46 2 = 0b00#2) (h : decodeHost c r = .instr i) : encode c i = r := by
  obtain ⟨hbit, hdata, hacc⟩ := decodeHost_instr_iff.1 h
  rw [encode_of_decodeAccess hdata hacc, encodeAccess_accessOf ha hbit]

/-- The data byte of HW_SHIFT with bits 7:1 clear is its bit 0. -/
theorem setWidth_ofBool_of_high_zero (d : Byte) :
    d.extractLsb' 1 7 = 0#7 → (BitVec.ofBool (d.getLsbD 0)).setWidth 8 = d := by
  revert d; decide

theorem encode_of_decodeSeq {c : Config} {r : Record} {i : Instr}
    (ha : r.extractLsb' 46 2 = 0b01#2) (h : decodeSeq r = .instr i) : encode c i = r := by
  have hfields := hasFieldsOf_of_decodeSeq (c := c) ha h
  simp only [decodeSeq] at h
  split_ifs at h with hzero hload hdata hshift hdata hcomplete hdata <;> cases h
  · rw [encode, ← hdata, encodeSeq_of_isSeq hfields.1]
  · rw [encode, setWidth_ofBool_of_high_zero _ hdata, encodeSeq_of_isSeq hfields.1]
  · rw [encode, ← hdata, encodeSeq_of_isSeq hfields.1]
  · exact encodeSeq_of_isSeq hfields

theorem encode_of_decodeEnv {c : Config} {r : Record} {i : Instr}
    (ha : r.extractLsb' 46 2 = 0b10#2) (h : decodeEnv r = .instr i) : encode c i = r := by
  have hfields := hasFieldsOf_of_decodeEnv (c := c) ha h
  simp only [decodeEnv] at h
  split_ifs at h with hreserved hzero hreset hclkOn <;> cases h <;> exact encodeEnv_of_isEnv hfields

theorem windowOffset_eq_some_iff {c : Config} {addr : Nat} {o : Offset} :
    windowOffset c addr = some o ↔
      c.spiBase ≤ addr ∧ addr < c.spiBase + 2 ^ c.aw.val ∧ o.toNat = addr - c.spiBase := by
  have hsize : 2 ^ c.aw.val ≤ 2 ^ 10 :=
    Nat.pow_le_pow_right (by decide) (Nat.le_of_lt_succ c.aw.isLt)
  unfold windowOffset
  split_ifs with h
  · have hfit : addr - c.spiBase < 2 ^ 10 := by omega
    rw [Option.some_inj, ← BitVec.toNat_inj, BitVec.toNat_ofNat, Nat.mod_eq_of_lt hfit, eq_comm]
    simp [h]
  · exact iff_of_false nofun fun ⟨hlow, hhigh, _⟩ => h ⟨hlow, hhigh⟩

/-- OFF_CR + 2 is no multiple of 4, and every register's offset is (20_memory.md R61). -/
theorem decodeAccess_offCr_add_two {c : Config} (hc : c.OffsetsWF) (we : Bool) (z : AccessSize)
    (v : Word) : decodeAccess c ⟨we, z, c.offCr + 2, v⟩ = none := by
  obtain ⟨-, -, -, hcr, hsr, hdr⟩ := hc
  have hmod : (c.offCr + 2).toNat % 4 = 2 := by
    rw [BitVec.toNat_add, show (2 : Offset).toNat = 2 from rfl]
    omega
  have hne (o : Offset) (ho : o.toNat % 4 = 0) : c.offCr + 2 ≠ o := fun h => by
    rw [h] at hmod; omega
  exact decodeAccess_eq_none (hne _ hcr) (hne _ hsr) (hne _ hdr)

end Sys2Proof

namespace Sys2Proof.Proofs

open Sys2Proof.Machine

/-- Settles O2, format by format (`decode_encode`). -/
theorem decodeOfEncodeIsTheStep : Obligations.DecodeOfEncodeIsTheStep := by
  unfold Obligations.DecodeOfEncodeIsTheStep
  exact fun c i hc => decode_encode hc i

/-- Settles O3: the agent chooses the format, and in each format a record is its fields. -/
theorem encodeOfDecodeIsTheRecord : Obligations.EncodeOfDecodeIsTheRecord := by
  unfold Obligations.EncodeOfDecodeIsTheRecord
  intro c r i h
  simp only [decode] at h
  split_ifs at h with hhost hseq henv
  · exact encode_of_decodeHost hhost h
  · exact encode_of_decodeSeq hseq h
  · exact encode_of_decodeEnv henv h

/-- Settles O7: the window by `windowOffset_eq_some_iff`, the steps by the address decoder's lemmas
at each of the three offsets and elsewhere. -/
theorem addressAndDirectionChooseTheStep : Obligations.AddressAndDirectionChooseTheStep := by
  unfold Obligations.AddressAndDirectionChooseTheStep
  refine ⟨rfl, rfl, fun c addr o => windowOffset_eq_some_iff, fun c z v hc => ?_,
    fun c a => decodeAccess_eq_none⟩
  exact ⟨decodeAccess_offCr .., decodeAccess_offCr .., decodeAccess_offSr hc ..,
    decodeAccess_offSr hc .., decodeAccess_offDr hc .., decodeAccess_offDr hc ..,
    fun w => decodeAccess_offCr_add_two hc w z v⟩

/-- Settles O1: the decoder is run on each record. -/
theorem writtenRecordsDecodeToTheirSteps : Obligations.WrittenRecordsDecodeToTheirSteps := by
  unfold Obligations.WrittenRecordsDecodeToTheirSteps
  decide

end Sys2Proof.Proofs

/-! ## When a step is taken, and what it gives out

With `State.after`, the whole of what a taken step does: `exec_next_iff`. -/

namespace Sys2Proof.Machine

/-- The value n passes every check of WR_CR (41_register_ops.md R146). -/
def State.AdmitsCr (s : State) (n : Half) : Prop :=
  hasReservedCrBit s.cfg n = false ∧ s.phase = .idle ∧
  (spe s.cfg n = true → changesMode s.cfg s.cr n = false ∧ mstr s.cfg n = true ∧
    ssm s.cfg n = true ∧ ssi s.cfg n = true)

/-- The conditions under which the step i is taken in s. -/
def State.Takes (s : State) : Instr → Prop
  | .rdCr z => s.clkEn = true ∧ z.admitted = true
  | .wrCr z v => s.clkEn = true ∧ z.admitted = true ∧ s.AdmitsCr (crOperand s.cfg v)
  | .rdSr z => s.clkEn = true ∧ z.admitted = true
  | .wrSr z _ => s.clkEn = true ∧ z.admitted = true
  | .rdDr z => s.clkEn = true ∧ z.admitted = true
  | .wrDr z _ => s.clkEn = true ∧ z.admitted = true ∧ s.txbFull = false
  | .hwLoad => loadEnabled s = true
  | .hwShift _ => shiftEnabled s = true
  | .hwComplete => completeEnabled s = true
  | .hwFrame _ => frameEnabled s = true
  | .envReset => True
  | .envClkOn => True
  | .envPins => True

/-- What the step i gives out when it is taken in s. -/
def State.gives (s : State) : Instr → Output
  | .rdCr _ => .readValue (busOfHalf s.cfg s.cr)
  | .rdSr _ => .readValue (busOfHalf s.cfg (srView s))
  | .rdDr _ => .readValue (busOfByte s.cfg (if s.rxbFull then s.rxb else Config.freeByte s.draws))
  | .hwShift _ => toPeer s (.peerBit (lineBit s.cfg s.shr))
  | .hwFrame _ => toPeer s (.peerByte s.shr)
  | _ => .nothing

theorem takes_of_next {i : Instr} {s t : State} (h : exec i s = .next t) : s.Takes i := by
  cases i with
  | rdCr z => obtain ⟨hc, hz, -⟩ := execRdCr_next h; exact ⟨hc, hz⟩
  | wrCr z v =>
    obtain ⟨hc, hz, hreserved, hphase, hmode, -⟩ := execWrCr_next h
    exact ⟨hc, hz, hreserved, hphase, hmode⟩
  | rdSr z => obtain ⟨hc, hz, -⟩ := execRdSr_next h; exact ⟨hc, hz⟩
  | wrSr z v => obtain ⟨hc, hz, -⟩ := execWrSr_next h; exact ⟨hc, hz⟩
  | rdDr z => obtain ⟨hc, hz, -⟩ := execRdDr_next h; exact ⟨hc, hz⟩
  | wrDr z v => obtain ⟨hc, hz, hf, -⟩ := execWrDr_next h; exact ⟨hc, hz, hf⟩
  | hwLoad => exact (execHwLoad_next h).1
  | hwShift m => exact (execHwShift_next h).1
  | hwComplete => exact (execHwComplete_next h).1
  | hwFrame r => exact (execHwFrame_next h).1
  | envReset | envClkOn | envPins => trivial

theorem readDr_eq (s : State) :
    readDr s = .next ((s.after (.rdDr .word)).withOutput (s.gives (.rdDr .word))) := by
  unfold readDr State.after State.gives
  cases s.rxbFull <;> rfl

theorem exec_of_takes {i : Instr} {s : State} (h : s.Takes i) :
    exec i s = .next ((s.after i).withOutput (s.gives i)) := by
  cases i with
  | rdCr z => exact hostStep_pass h.1 h.2
  | wrCr z v =>
    obtain ⟨hc, hz, hreserved, hphase, hmode⟩ := h
    exact (hostStep_pass hc hz).trans (writeCr_next.2 ⟨hreserved, hphase, hmode, rfl⟩)
  | rdSr z => exact hostStep_pass h.1 h.2
  | wrSr z v => exact hostStep_pass h.1 h.2
  | rdDr z => exact (hostStep_pass h.1 h.2).trans (readDr_eq s)
  | wrDr z v =>
    obtain ⟨hc, hz, hf⟩ := h
    exact (hostStep_pass hc hz).trans (writeDr_next.2 ⟨hf, rfl⟩)
  | hwLoad | hwShift m | hwComplete | hwFrame r => exact if_pos h
  | envReset | envClkOn | envPins => rfl

/-- What a step answers when it answers a next state, in full. -/
theorem exec_next_iff {i : Instr} {s t : State} :
    exec i s = .next t ↔ s.Takes i ∧ t = (s.after i).withOutput (s.gives i) := by
  constructor
  · intro h
    have htakes := takes_of_next h
    rw [exec_of_takes htakes] at h
    cases h
    exact ⟨htakes, rfl⟩
  · rintro ⟨htakes, rfl⟩
    exact exec_of_takes htakes

/-! ### The end of a frame, more elements -/

@[simp] theorem finishFrame_cr (s : State) : (finishFrame s).cr = s.cr := by
  rcases finishFrame_cases s with ⟨-, e⟩ | ⟨-, e⟩ <;> simp [e]

@[simp] theorem finishFrame_txb (s : State) : (finishFrame s).txb = s.txb := by
  rcases finishFrame_cases s with ⟨-, e⟩ | ⟨-, e⟩ <;> simp [e]

@[simp] theorem finishFrame_rxb (s : State) : (finishFrame s).rxb = s.deliver.rxb := by
  rcases finishFrame_cases s with ⟨-, e⟩ | ⟨-, e⟩ <;> simp [e]

@[simp] theorem finishFrame_phase (s : State) :
    (finishFrame s).phase = if s.txbFull then .shift else .idle := by
  rcases finishFrame_cases s with ⟨h, e⟩ | ⟨h, e⟩ <;> simp [e, h]

@[simp] theorem finishFrame_bitcnt (s : State) : (finishFrame s).bitcnt = 0 := by
  rcases finishFrame_cases s with ⟨-, e⟩ | ⟨-, e⟩ <;> simp [e]

@[simp] theorem finishFrame_presc (s : State) : (finishFrame s).presc = s.presc := by
  rcases finishFrame_cases s with ⟨-, e⟩ | ⟨-, e⟩ <;> simp [e]

@[simp] theorem finishFrame_faults (s : State) : (finishFrame s).faults = s.faults := by
  rcases finishFrame_cases s with ⟨-, e⟩ | ⟨-, e⟩ <;> simp [e]

@[simp] theorem finishFrame_refused (s : State) : (finishFrame s).refused = s.refused := by
  rcases finishFrame_cases s with ⟨-, e⟩ | ⟨-, e⟩ <;> simp [e]

@[simp] theorem finishFrame_cfg (s : State) : (finishFrame s).cfg = s.cfg := by
  rcases finishFrame_cases s with ⟨-, e⟩ | ⟨-, e⟩ <;> simp [e]

@[simp] theorem finishFrame_inputs (s : State) : (finishFrame s).inputs = s.inputs := by
  rcases finishFrame_cases s with ⟨-, e⟩ | ⟨-, e⟩ <;> simp [e]

/-! ### What every taken step keeps (10_state.md) -/

@[simp] theorem State.after_faults (s : State) (i : Instr) : (s.after i).faults = s.faults := by
  cases i <;> simp [State.after]

@[simp] theorem State.after_refused (s : State) (i : Instr) : (s.after i).refused = s.refused := by
  cases i <;> simp [State.after]

@[simp] theorem State.after_cfg (s : State) (i : Instr) : (s.after i).cfg = s.cfg := by
  cases i <;> simp [State.after]

@[simp] theorem State.after_inputs (s : State) (i : Instr) : (s.after i).inputs = s.inputs := by
  cases i <;> simp [State.after]

theorem after_presc {s : State} {i : Instr} (hi : i ≠ .envReset) : (s.after i).presc = s.presc := by
  cases i <;> simp [State.after] at hi ⊢

theorem after_cr {s : State} {i : Instr} (hi : i ≠ .envReset) (hw : ∀ z v, i ≠ .wrCr z v) :
    (s.after i).cr = s.cr := by
  cases i <;> simp [State.after] at hi hw ⊢

theorem after_txb {s : State} {i : Instr} (hi : i ≠ .envReset) (hw : ∀ z v, i ≠ .wrDr z v) :
    (s.after i).txb = s.txb := by
  cases i <;> simp [State.after] at hi hw ⊢

/-- RXB is written at the end of a frame only (10_state.md R25). -/
theorem after_rxb {s : State} {i : Instr} (hi : i ≠ .envReset) (hc : i ≠ .hwComplete)
    (hf : ∀ r, i ≠ .hwFrame r) : (s.after i).rxb = s.rxb := by
  cases i <;> simp [State.after] at hi hc hf ⊢

/-- SHR is written by SEQ only (10_state.md R26). -/
theorem after_shr {s : State} {i : Instr} (hi : i ≠ .envReset) (hs : i.agent ≠ .seq) :
    (s.after i).shr = s.shr := by
  cases i <;> simp [State.after, Instr.agent] at hi hs ⊢

/-- Only SEQ and ENV_RESET move the sequencer (42_serializer.md section 4). -/
theorem after_phase_bitcnt {s : State} {i : Instr} (hi : i ≠ .envReset) (hs : i.agent ≠ .seq) :
    (s.after i).phase = s.phase ∧ (s.after i).bitcnt = s.bitcnt := by
  cases i <;> simp [State.after, Instr.agent] at hi hs ⊢

end Sys2Proof.Machine

namespace Sys2Proof.Proofs

open Sys2Proof.Machine

/-- Settles O40: each of the four elements is kept by the update of every other step. -/
theorem eachRegisterHasItsWriters : Obligations.EachRegisterHasItsWriters := by
  unfold Obligations.EachRegisterHasItsWriters
  intro i s t hi h
  obtain ⟨o, rfl⟩ := exec_next h
  refine ⟨fun hne => ?_, fun hne => ?_, fun hne => ?_, fun hne => ?_⟩ <;> by_contra hother
  · exact hne (after_cr hi fun z v hw => hother ⟨z, v, hw⟩)
  · exact hne (after_txb hi fun z v hw => hother ⟨z, v, hw⟩)
  · exact hne (after_rxb hi (fun hc => hother (.inl hc)) fun r hf => hother (.inr ⟨r, hf⟩))
  · exact hne (after_shr hi hother)

/-- Settles O41: no update writes the marks, the parameters or the pending records. -/
theorem stepsKeepMarksAndParameters : Obligations.StepsKeepMarksAndParameters := by
  unfold Obligations.StepsKeepMarksAndParameters
  intro i s t h
  obtain ⟨o, rfl⟩ := exec_next h
  exact ⟨s.after_faults i, s.after_refused i, s.after_cfg i, s.after_inputs i, after_presc⟩

end Sys2Proof.Proofs

/-! ## One step of the machine

The oldest record or the machine alone (spec/00_scope.md rules R9, R14), and the marks of a run
(spec/10_state.md rule R39). -/

namespace Sys2Proof.Machine

theorem step_of_inputs {s : State} {r : Record} {rest : List Record} (h : s.inputs = r :: rest) :
    step s = takeRecord r (s.withInputs rest) := by
  simp [step, nextStep, h]

theorem step_of_no_inputs {s : State} (h : s.inputs = []) : step s = stepAlone s := by
  simp [step, nextStep, h]

theorem takeRecord_of_instr {r : Record} {i : Instr} {s : State} (h : decode s.cfg r = .instr i) :
    takeRecord r s = exec i s := by
  simp [takeRecord, h]

theorem takeRecord_of_invalid {r : Record} {why : InvalidRecord} {s : State}
    (h : decode s.cfg r = .invalid why) : takeRecord r s = .refused (.invalidRecord why) := by
  simp [takeRecord, h]

/-- The step that the machine chooses by itself is SEQ's, and it is taken in the state with the two
choices drawn. -/
theorem takes_of_seqChoice {s : State} {m : Bool} {i : Instr} (h : seqChoice s m = some i) :
    i.agent = .seq ∧ (s.drawn 2).Takes i := by
  obtain ⟨rfl, hguard⟩ | ⟨rfl, hguard⟩ | ⟨rfl, hguard⟩ := seqChoice_some h <;> exact ⟨rfl, hguard⟩

theorem stepAlone_cases (s : State) :
    stepAlone s = done (s.drawn 2) ∨
    ∃ i t, i.agent = .seq ∧ exec i (s.drawn 2) = .next t ∧ stepAlone s = .next t := by
  unfold stepAlone
  split_ifs
  · cases hchoice : seqChoice s (Config.freeBit (s.draws + 1)) with
    | none => exact .inl rfl
    | some i =>
      obtain ⟨hagent, htakes⟩ := takes_of_seqChoice hchoice
      have hexec := exec_of_takes htakes
      exact .inr ⟨i, _, hagent, hexec, hexec⟩
  · exact .inl rfl

/-- What every taken step keeps, and what does not depend on the pending records, the draws or the
output, a step of the machine keeps. -/
theorem step_keeps {P : State → Prop} (houtput : ∀ s o, P s → P (s.withOutput o))
    (hinputs : ∀ s l, P s → P (s.withInputs l)) (hdrawn : ∀ s k, P s → P (s.drawn k))
    (hafter : ∀ s i, P s → s.Takes i → P (s.after i)) {s t : State} (hs : P s)
    (h : step s = .next t) : P t := by
  have hexec {i : Instr} {u : State} (hu : P u) (he : exec i u = .next t) : P t := by
    obtain ⟨htakes, rfl⟩ := exec_next_iff.1 he
    exact houtput _ _ (hafter u i hu htakes)
  obtain ⟨_, rest, _, -, -, he⟩ | ⟨_, _, -, -, he⟩ | ⟨-, rfl⟩ := step_next h
  · exact hexec (hinputs s rest hs) he
  · exact hexec (hdrawn s 2 hs) he
  · exact houtput _ _ (hdrawn s 2 hs)

/-- A step of the machine keeps the marks (10_state.md R39). -/
theorem step_keeps_marks {s t : State} (h : step s = .next t) :
    t.faults = s.faults ∧ t.refused = s.refused := by
  refine step_keeps (P := fun u => u.faults = s.faults ∧ u.refused = s.refused)
    (fun _ _ => id) (fun _ _ => id) (fun _ _ => id) (fun u i hu _ => ?_) ⟨rfl, rfl⟩ h
  rwa [State.after_faults, State.after_refused]

theorem advance_of_next {s t : State} (h : step s = .next t) : advance s = t := by
  simp [advance, h]

theorem advance_of_fault {s : State} {f : Fault} (h : step s = .fault f) :
    advance s = (s.withInputs s.inputs.tail).recordFault f.kind := by
  simp [advance, h]

theorem advance_of_refused {s : State} {r : Refusal} (h : step s = .refused r) :
    advance s = (s.withInputs s.inputs.tail).recordRefusal r := by
  simp [advance, h]

/-- Whatever the step answers, the marks already there stay. -/
theorem advance_keeps_marks (s : State) :
    (∀ k, s.faults.has k = true → (advance s).faults.has k = true) ∧
    (s.refused = true → (advance s).refused = true) := by
  cases h : step s with
  | next t =>
    obtain ⟨hfaults, hrefused⟩ := step_keeps_marks h
    rw [advance_of_next h, hfaults, hrefused]
    exact ⟨fun _ => id, id⟩
  | fault f =>
    rw [advance_of_fault h]
    exact ⟨fun k hk => FaultMarks.has_add _ _ _ hk, id⟩
  | refused r =>
    rw [advance_of_refused h]
    exact ⟨fun _ => id, fun hr => by simp [hr]⟩

end Sys2Proof.Machine

namespace Sys2Proof.Proofs

open Sys2Proof.Machine

/-- Settles O8: the three answers of the decoder. -/
theorem stepTakesTheOldestRecord : Obligations.StepTakesTheOldestRecord := by
  unfold Obligations.StepTakesTheOldestRecord
  intro s r rest h
  rw [step_of_inputs h]
  exact ⟨fun i => takeRecord_of_instr (s := s.withInputs rest),
    fun a => takeRecord_of_noRegister (s := s.withInputs rest),
    fun why => takeRecord_of_invalid (s := s.withInputs rest)⟩

/-- Settles O9: the machine's own choice is always a step in its guard. -/
theorem aloneOnlySeqSteps : Obligations.AloneOnlySeqSteps := by
  unfold Obligations.AloneOnlySeqSteps
  intro s h
  rw [step_of_no_inputs h]
  exact stepAlone_cases s

/-- Settles O44: the recorded state is read off the outcome of the step. -/
theorem runsRecordMarksForGood : Obligations.RunsRecordMarksForGood := by
  unfold Obligations.RunsRecordMarksForGood
  intro s
  obtain ⟨hfaults, hrefused⟩ := advance_keeps_marks s
  refine ⟨hfaults, hrefused, fun f h => ?_, fun r h hlisted => ?_⟩
  · rw [advance_of_fault h]
    exact FaultMarks.has_add_self _ _
  · rw [advance_of_refused h, State.recordRefusal, hlisted, Bool.or_true]
    rfl

end Sys2Proof.Proofs

/-! ## Invariants that every step keeps

The invariants (a) to (f) (spec/10_state.md rule R37) and what the data-out line carries during a
frame (R34), each kept by the update of every step that is taken. -/

namespace Sys2Proof.Safety

open Sys2Proof.Machine

/-- The invariants speak of six elements only. -/
theorem Inv.congr {s t : State} (h : Inv s) (hcr : t.cr = s.cr) (hphase : t.phase = s.phase)
    (hbitcnt : t.bitcnt = s.bitcnt) (hsck : t.sck = s.sck) (hclk : t.clkEn = s.clkEn)
    (hcfg : t.cfg = s.cfg) : Inv t := by
  obtain ⟨ha, hb, hc, hd, he, hf⟩ := h
  constructor <;> simpa only [hcr, hphase, hbitcnt, hsck, hclk, hcfg]

/-- With no frame in progress, an admitted value of CR meets (c) and (d). -/
theorem Inv.setCr {s : State} {n : Half} (h : Inv s) (hn : s.AdmitsCr n) : Inv (s.setCr n) := by
  obtain ⟨hreserved, hphase, hmode⟩ := hn
  exact {
    idle_bitcnt := h.idle_bitcnt
    bitcnt_le := h.bitcnt_le
    cr_impl := bne_eq_false_iff_eq.1 hreserved
    spe_config := fun hspe => (hmode hspe).2
    shift_enabled := fun hshift => absurd (hphase.symm.trans hshift) nofun
    idle_sck := h.idle_sck }

theorem Inv.loadFrame {s : State} (h : Inv s) (hactive : active s = true) : Inv s.loadFrame := by
  obtain ⟨hclk, hspe, -⟩ := active_iff.1 hactive
  exact {
    idle_bitcnt := nofun
    bitcnt_le := Nat.zero_le _
    cr_impl := h.cr_impl
    spe_config := h.spe_config
    shift_enabled := fun _ => ⟨hspe, hclk⟩
    idle_sck := nofun }

/-- A shift keeps bitcnt at most 8, since it is taken below 8 only. -/
theorem Inv.shiftBit {s : State} {m : Bool} (h : Inv s) (hphase : s.phase = .shift)
    (hbitcnt : s.bitcnt.toNat < 8) : Inv (s.shiftBit m) where
  idle_bitcnt hidle := absurd (hphase.symm.trans hidle) nofun
  bitcnt_le := by
    rw [State.shiftBit_bitcnt, BitVec.toNat_add]
    exact (Nat.mod_le _ _).trans hbitcnt
  cr_impl := h.cr_impl
  spe_config := h.spe_config
  shift_enabled := h.shift_enabled
  idle_sck _ := rfl

theorem Inv.fillFrame {s : State} {r : Byte} (h : Inv s) (hphase : s.phase = .shift) :
    Inv (s.fillFrame r) where
  idle_bitcnt hidle := absurd (hphase.symm.trans hidle) nofun
  bitcnt_le := Nat.le_refl 8
  cr_impl := h.cr_impl
  spe_config := h.spe_config
  shift_enabled := h.shift_enabled
  idle_sck _ := rfl

/-- The end of a frame goes idle, or goes on in an enabled block. -/
theorem Inv.finishFrame {s : State} (h : Inv s) (hphase : s.phase = .shift) :
    Inv (finishFrame s) where
  idle_bitcnt _ := finishFrame_bitcnt s
  bitcnt_le := by simp
  cr_impl := by simpa using h.cr_impl
  spe_config := by simpa using h.spe_config
  shift_enabled _ := by simpa using h.shift_enabled hphase
  idle_sck hidle := by
    rcases finishFrame_cases s with ⟨-, e⟩ | ⟨-, e⟩
    · rw [e] at hidle; cases hidle
    · rw [e]; rfl

theorem Inv.resetRegisters {s : State} : Inv s.resetRegisters where
  idle_bitcnt _ := rfl
  bitcnt_le := Nat.zero_le _
  cr_impl := BitVec.zero_and
  spe_config hspe := by simp [spe] at hspe
  shift_enabled := nofun
  idle_sck _ := rfl

theorem Inv.clockOn {s : State} (h : Inv s) : Inv s.clockOn :=
  { h with shift_enabled := fun hshift => ⟨(h.shift_enabled hshift).1, rfl⟩ }

/-- The update of every step that is taken keeps the invariants. -/
theorem Inv.after {s : State} {i : Instr} (h : Inv s) (htakes : s.Takes i) : Inv (s.after i) := by
  cases i with
  | rdCr | rdSr | wrSr => exact h
  | rdDr | wrDr | envPins => exact h.congr rfl rfl rfl rfl rfl rfl
  | wrCr z v =>
    obtain ⟨-, -, hadmits⟩ := htakes
    exact h.setCr hadmits
  | hwLoad => exact h.loadFrame (loadEnabled_iff.1 htakes).1
  | hwShift m =>
    obtain ⟨-, hphase, hbitcnt⟩ := shiftEnabled_iff.1 htakes
    exact h.shiftBit hphase hbitcnt
  | hwComplete =>
    obtain ⟨-, hphase, -⟩ := completeEnabled_iff.1 htakes
    exact h.finishFrame hphase
  | hwFrame r =>
    obtain ⟨-, hphase, -⟩ := frameEnabled_iff.1 htakes
    exact (h.fillFrame hphase).finishFrame hphase
  | envReset => exact Inv.resetRegisters
  | envClkOn => exact h.clockOn

/-- The end of a frame with a byte staged puts its first bit on the line; else no frame is left. -/
theorem lineCarriesShr_finishFrame (s : State) : LineCarriesShr (finishFrame s) := by
  intro hcpha hshift
  rcases finishFrame_cases s with ⟨-, e⟩ | ⟨-, e⟩ <;> rw [e] at hcpha hshift ⊢
  · exact if_neg (Bool.eq_false_iff.1 hcpha)
  · cases hshift

theorem LineCarriesShr.after {s : State} (h : LineCarriesShr s) (i : Instr) :
    LineCarriesShr (s.after i) := by
  cases i with
  | hwLoad => exact fun hcpha _ => if_neg (Bool.eq_false_iff.1 hcpha)
  | hwShift m => exact fun hcpha _ => congrArg (lineBit s.cfg) (if_neg (Bool.eq_false_iff.1 hcpha))
  | hwComplete => exact lineCarriesShr_finishFrame s
  | hwFrame r => exact lineCarriesShr_finishFrame _
  | envReset => exact fun _ hshift => nomatch hshift
  | _ => exact h

end Sys2Proof.Safety

namespace Sys2Proof.Proofs

open Sys2Proof.Machine Sys2Proof.Safety

/-- Settles O45, step by step (`Inv.after`). -/
theorem stepKeepsTheInvariants : Obligations.StepKeepsTheInvariants := by
  unfold Obligations.StepKeepsTheInvariants
  exact fun s t => step_keeps (fun _ _ h => h.congr rfl rfl rfl rfl rfl rfl)
    (fun _ _ h => h.congr rfl rfl rfl rfl rfl rfl) (fun _ _ h => h.congr rfl rfl rfl rfl rfl rfl)
    (fun _ _ h => h.after)

/-- Settles O47, step by step (`LineCarriesShr.after`). -/
theorem stepKeepsTheLineOnShr : Obligations.StepKeepsTheLineOnShr := by
  unfold Obligations.StepKeepsTheLineOnShr
  exact fun s t => step_keeps (fun _ _ => id) (fun _ _ => id) (fun _ _ => id)
    (fun _ i h _ => h.after i)

/-- Settles O46: each clause speaks of given values. -/
theorem resetMeetsTheInvariants : Obligations.ResetMeetsTheInvariants := by
  unfold Obligations.ResetMeetsTheInvariants
  have hinv : Inv State.reset := by constructor <;> decide
  have hline : LineCarriesShr State.reset := fun _ hshift => absurd hshift (by decide)
  exact ⟨hinv, hline, by decide⟩

/-- Settles O36: the values are those of `State.reset`. -/
theorem resetHoldsTheGivenValues : Obligations.ResetHoldsTheGivenValues := by
  unfold Obligations.ResetHoldsTheGivenValues
  decide

end Sys2Proof.Proofs

/-! ## The HOST steps

What each answers, clocked and of an admitted size (spec/41_register_ops.md), and why a step stops
(spec/60_exceptions.md rules R231, R232). -/

namespace Sys2Proof.Machine

/-- A bus of 16 bits or more carries a register's 16 bits whole. -/
theorem busOfHalf_of_wide {c : Config} (h : 16 ≤ c.busw) (v : Half) :
    busOfHalf c v = v.setWidth 32 := by
  apply BitVec.eq_of_getLsbD_eq
  intro j hj
  rw [busOfHalf_getLsbD, BitVec.getLsbD_setWidth]
  by_cases hv : j < 16
  · simp [hj, show j < c.busw by omega]
  · simp [BitVec.getLsbD_of_ge v j (by omega)]

/-- What WR_CR stores of a data word reads back as its low REGW bits. -/
theorem busOfHalf_crOperand {c : Config} (h : c.WidthsWF) (v : Word) :
    busOfHalf c (crOperand c v) = truncTo c.regw.val v := by
  have hbus := h.2
  have hreg := c.regw.isLt
  apply BitVec.eq_of_getLsbD_eq
  intro j _
  rw [busOfHalf_getLsbD, crOperand, registerPart_eq c h, BitVec.getLsbD_setWidth, truncTo_getLsbD]
  by_cases hj : j < c.regw.val
  · simp [hj, show j < c.busw by omega, show j < 16 by omega]
  · simp [hj]

/-! ### WR_CR -/

theorem exec_wrCr {z : AccessSize} {v : Word} {s : State} (hc : s.clkEn = true)
    (hz : z.admitted = true) : exec (.wrCr z v) s = writeCr (crOperand s.cfg v) s :=
  hostStep_pass hc hz

theorem hasReservedCrBit_iff {c : Config} {n : Half} :
    hasReservedCrBit c n = true ↔ n &&& ~~~c.crImpl ≠ 0 := bne_iff_ne

theorem changesMode_iff {c : Config} {old n : Half} :
    changesMode c old n = true ↔ n &&& c.crMode ≠ old &&& c.crMode := bne_iff_ne

/-- Two words that agree in every mode bit have the same mode. -/
theorem changesMode_eq_false {c : Config} {old n : Half}
    (h : ∀ j, c.crMode.getLsbD j = true → n.getLsbD j = old.getLsbD j) :
    changesMode c old n = false := by
  rw [changesMode, bne_eq_false_iff_eq]
  apply BitVec.eq_of_getLsbD_eq
  intro j _
  rw [BitVec.getLsbD_and, BitVec.getLsbD_and]
  cases hmode : c.crMode.getLsbD j with
  | false => simp
  | true => rw [h j hmode]

/-- Writing a word with MSTR set over one with MSTR clear changes the mode. -/
theorem changesMode_of_mstr {c : Config} {old n : Half} (hold : mstr c old = false)
    (hn : mstr c n = true) : changesMode c old n = true := by
  rw [changesMode_iff]
  intro h
  have hbit := congrArg (BitVec.getLsbD · c.crMstr.val) h
  rw [mstr] at hold hn
  simp [Config.crMode, BitVec.getLsbD_or, hold, hn, -BitVec.getLsbD_eq_getElem] at hbit

section
variable {n : Half} {s : State}

theorem writeCr_reserved (hr : hasReservedCrBit s.cfg n = true) :
    writeCr n s = .refused .reservedCrBits := by
  simp [writeCr, hr]

theorem writeCr_busy (hr : hasReservedCrBit s.cfg n = false) (hphase : s.phase = .shift) :
    writeCr n s = .fault (.configChangeWhileBusy s.cr n) := by
  simp [writeCr, hr, hphase]

variable (hr : hasReservedCrBit s.cfg n = false) (hphase : s.phase = .idle)
  (hspe : spe s.cfg n = true)
include hr hphase hspe

theorem writeCr_modeChange (hmode : changesMode s.cfg s.cr n = true) :
    writeCr n s = .fault (.modeChangeWhileEnabled s.cr n) := by
  simp [writeCr, hr, hphase, hspe, hmode]

variable (hmode : changesMode s.cfg s.cr n = false)
include hmode

theorem writeCr_slave (hm : mstr s.cfg n = false) : writeCr n s = .refused .slaveRole := by
  simp [writeCr, hr, hphase, hspe, hmode, hm]

theorem writeCr_hardwareNss (hm : mstr s.cfg n = true) (hssm : ssm s.cfg n = false) :
    writeCr n s = .refused .hardwareNss := by
  simp [writeCr, hr, hphase, hspe, hmode, hm, hssm]

theorem writeCr_modeFault (hm : mstr s.cfg n = true) (hssm : ssm s.cfg n = true)
    (hssi : ssi s.cfg n = false) : writeCr n s = .fault (.modeFaultConfig n) := by
  simp [writeCr, hr, hphase, hspe, hmode, hm, hssm, hssi]

end

/-- A word whose bits are all implemented fits the register (30_encoding.md R94). -/
theorem getLsbD_of_noReservedBit {c : Config} (h : c.CrWF) {n : Half}
    (hn : hasReservedCrBit c n = false) {j : Nat} (hj : c.regw.val ≤ j) : n.getLsbD j = false := by
  obtain ⟨-, -, -, -, -, -, -, -, -, -, hMstr, hSpe, hSsi, hSsm, hBr⟩ := h
  rw [Bool.eq_false_iff]
  intro hbit
  have himpl := (crImpl_getLsbD_eq_true_iff c j).1 (hasReservedCrBit_eq_false_iff.1 hn j hbit)
  omega

/-- A word whose bits are all implemented is written as it stands, whatever stands above it. -/
theorem crOperand_of_noReservedBit {c : Config} (hw : c.WidthsWF) (h : c.CrWF) {n : Half} {v : Word}
    (hn : hasReservedCrBit c n = false) (hv : ∀ j, j < c.regw.val → v.getLsbD j = n.getLsbD j) :
    crOperand c v = n :=
  crOperand_of_fits c hw n v hv fun _ => getLsbD_of_noReservedBit h hn

theorem spe_enableWord (c : Config) (d : Nat) : spe c (enableWord c d) = true := by
  simp [spe, enableWord_getLsbD]

theorem enableWord_fields (c : Config) (d : Nat) :
    mstr c (enableWord c d) = true ∧ ssm c (enableWord c d) = true ∧
    ssi c (enableWord c d) = true := by
  simp [mstr, ssm, ssi, enableWord_getLsbD, controlWord_getLsbD]

/-! ### DR -/

theorem readDr_of_full {s : State} (h : s.rxbFull = true) :
    readDr s = returning (busOfByte s.cfg s.rxb) s.clearRxne := by
  simp [readDr, h]

theorem clearRxne_of_empty {s : State} (h : s.rxbFull = false) : s.clearRxne = s := by
  rw [State.clearRxne, ← h]

theorem readDr_of_empty {s : State} (h : s.rxbFull = false) :
    readDr s = returning (busOfByte s.cfg (Config.freeByte s.draws)) (s.drawn 1) := by
  rw [readDr, h, clearRxne_of_empty h]
  rfl

theorem writeDr_of_full {b : Byte} {s : State} (h : s.txbFull = true) :
    writeDr b s = .fault (.txOverwrite b s.txb) := by
  simp [writeDr, h]

/-! ### Why a step stops -/

theorem exec_hwLoad_refused {s : State} (h : ¬ s.Takes .hwLoad) :
    exec .hwLoad s = .refused .loadNotEnabled := if_neg h

theorem exec_hwShift_refused {m : Bool} {s : State} (h : ¬ s.Takes (.hwShift m)) :
    exec (.hwShift m) s = .refused .shiftNotEnabled := if_neg h

theorem exec_hwComplete_refused {s : State} (h : ¬ s.Takes .hwComplete) :
    exec .hwComplete s = .refused .completeNotEnabled := if_neg h

theorem exec_hwFrame_refused {r : Byte} {s : State} (h : ¬ s.Takes (.hwFrame r)) :
    exec (.hwFrame r) s = .refused .frameNotEnabled := if_neg h

/-- A SEQ step is taken, or it is refused by a name that is not of the list RF1 to RF5 (log entry
11). -/
theorem exec_seq_cases {i : Instr} (hi : i.agent = .seq) (s : State) :
    s.Takes i ∨ ∃ r, exec i s = .refused r ∧ r.isListed = false := by
  by_cases h : s.Takes i
  · exact .inl h
  · right
    cases i with
    | hwLoad => exact ⟨_, exec_hwLoad_refused h, rfl⟩
    | hwShift m => exact ⟨_, exec_hwShift_refused h, rfl⟩
    | hwComplete => exact ⟨_, exec_hwComplete_refused h, rfl⟩
    | hwFrame r => exact ⟨_, exec_hwFrame_refused h, rfl⟩
    | _ => cases hi

theorem hostStep_fault {record : Record} {z : AccessSize} {s : State} {k : State → Result}
    {f : Fault}
    (h : hostStep record z s k = .fault f) :
    (s.clkEn = false ∧ f = .unclockedAccess record) ∨ k s = .fault f := by
  unfold hostStep at h
  split_ifs at h with hc hz
  · cases h
    exact .inl ⟨by simpa using hc, rfl⟩
  · exact .inr h

theorem hostStep_refused {record : Record} {z : AccessSize} {s : State} {k : State → Result}
    {r : Refusal} (h : hostStep record z s k = .refused r) :
    (r = .badAccessSize ∧ z.admitted = false) ∨ k s = .refused r := by
  unfold hostStep at h
  split_ifs at h with hc hz
  · cases h
    exact .inl ⟨rfl, by simpa using hz⟩
  · exact .inr h

theorem writeCr_fault {n : Half} {s : State} {f : Fault} (h : writeCr n s = .fault f) :
    (s.phase = .shift ∧ f = .configChangeWhileBusy s.cr n) ∨
    (spe s.cfg n = true ∧ changesMode s.cfg s.cr n = true ∧ f = .modeChangeWhileEnabled s.cr n) ∨
    (spe s.cfg n = true ∧ mstr s.cfg n = true ∧ ssm s.cfg n = true ∧ ssi s.cfg n = false ∧
      f = .modeFaultConfig n) := by
  unfold writeCr done at h
  split_ifs at h with hr hphase hmode hm hssm hssi
  · cases h; exact .inl ⟨by simpa using hphase, rfl⟩
  · cases h; simp_all
  · cases h; simp_all

theorem writeCr_refused {n : Half} {s : State} {r : Refusal} (h : writeCr n s = .refused r) :
    (r = .reservedCrBits ∧ hasReservedCrBit s.cfg n = true) ∨
    (r = .slaveRole ∧ spe s.cfg n = true ∧ mstr s.cfg n = false) ∨
    (r = .hardwareNss ∧ spe s.cfg n = true ∧ ssm s.cfg n = false) := by
  unfold writeCr done at h
  split_ifs at h with hr hphase hmode hm hssm hssi
  · cases h; exact .inl ⟨rfl, hr⟩
  · cases h; simp_all
  · cases h; simp_all

theorem writeDr_fault {b : Byte} {s : State} {f : Fault} (h : writeDr b s = .fault f) :
    s.txbFull = true ∧ f = .txOverwrite b s.txb := by
  unfold writeDr done at h
  split_ifs at h with hfull
  cases h
  exact ⟨hfull, rfl⟩

/-- Only an access of the HOST faults: the clock is off, or the access is a write of CR or of DR
whose own rule faults. -/
theorem exec_fault_cases {i : Instr} {s : State} {f : Fault} (h : exec i s = .fault f) :
    (i.agent = .host ∧ s.clkEn = false ∧ f = .unclockedAccess (encode s.cfg i)) ∨
    (∃ z v, i = .wrCr z v ∧ writeCr (crOperand s.cfg v) s = .fault f) ∨
    (∃ z v, i = .wrDr z v ∧ writeDr (drOperand s.cfg v) s = .fault f) := by
  have hseq : i.agent ≠ .seq := fun hagent => by
    obtain htakes | ⟨r, e, -⟩ := exec_seq_cases hagent s
    · rw [exec_of_takes htakes] at h; cases h
    · rw [e] at h; cases h
  cases i with
  | rdCr | rdSr | wrSr =>
    obtain ⟨hc, e⟩ | hown := hostStep_fault h
    · exact .inl ⟨rfl, hc, e⟩
    · cases hown
  | rdDr z =>
    obtain ⟨hc, e⟩ | hown := hostStep_fault h
    · exact .inl ⟨rfl, hc, e⟩
    · rw [readDr_eq] at hown; cases hown
  | wrCr z v =>
    obtain ⟨hc, e⟩ | hown := hostStep_fault h
    · exact .inl ⟨rfl, hc, e⟩
    · exact .inr (.inl ⟨z, v, rfl, hown⟩)
  | wrDr z v =>
    obtain ⟨hc, e⟩ | hown := hostStep_fault h
    · exact .inl ⟨rfl, hc, e⟩
    · exact .inr (.inr ⟨z, v, rfl, hown⟩)
  | hwLoad | hwShift | hwComplete | hwFrame => exact absurd rfl hseq
  | envReset | envClkOn | envPins => cases h

/-- A step is refused for its size, or it is a write of CR whose own rule refuses, or a SEQ step
that is not enabled. -/
theorem exec_refused_cases {i : Instr} {s : State} {r : Refusal} (h : exec i s = .refused r) :
    (r = .badAccessSize ∧ ∃ z, i.size? = some z ∧ z.admitted = false) ∨
    (∃ z v, i = .wrCr z v ∧ writeCr (crOperand s.cfg v) s = .refused r) ∨
    (i.agent = .seq ∧ r.isListed = false) := by
  by_cases hseq : i.agent = .seq
  · obtain htakes | ⟨r', e, hlisted⟩ := exec_seq_cases hseq s
    · rw [exec_of_takes htakes] at h; cases h
    · rw [e] at h
      cases h
      exact .inr (.inr ⟨hseq, hlisted⟩)
  cases i with
  | rdCr z | rdSr z | wrSr z =>
    obtain ⟨e, hz⟩ | hown := hostStep_refused h
    · exact .inl ⟨e, z, rfl, hz⟩
    · cases hown
  | rdDr z =>
    obtain ⟨e, hz⟩ | hown := hostStep_refused h
    · exact .inl ⟨e, z, rfl, hz⟩
    · rw [readDr_eq] at hown; cases hown
  | wrCr z v =>
    obtain ⟨e, hz⟩ | hown := hostStep_refused h
    · exact .inl ⟨e, z, rfl, hz⟩
    · exact .inr (.inl ⟨z, v, rfl, hown⟩)
  | wrDr z v =>
    obtain ⟨e, hz⟩ | hown := hostStep_refused h
    · exact .inl ⟨e, z, rfl, hz⟩
    · unfold writeDr done at hown; split_ifs at hown
  | hwLoad | hwShift | hwComplete | hwFrame => exact absurd rfl hseq
  | envReset | envClkOn | envPins => cases h

end Sys2Proof.Machine

namespace Sys2Proof.Proofs

open Sys2Proof.Machine

/-- Settles O11: the word is CR on the bus. -/
theorem rdCrReturnsCr : Obligations.RdCrReturnsCr := by
  unfold Obligations.RdCrReturnsCr
  intro z s hc hz
  exact ⟨busOfHalf s.cfg s.cr, exec_of_takes (i := .rdCr z) ⟨hc, admitted_of_half_or_word hz⟩,
    busOfHalf_getLsbD _ _, fun hwide => busOfHalf_of_wide hwide _⟩

/-- Settles O12: CR holds the operand of the write, and that reads back as the low bits written. -/
theorem crReadsBackWhatWasWritten : Obligations.CrReadsBackWhatWasWritten := by
  unfold Obligations.CrReadsBackWhatWasWritten
  intro z y v s t hw h hy
  obtain ⟨⟨hc, -⟩, rfl⟩ := exec_next_iff.1 h
  have hread : busOfHalf s.cfg (crOperand s.cfg v) =
      BitVec.ofNat 32 (v.toNat % 2 ^ s.cfg.regw.val) :=
    busOfHalf_crOperand hw v
  rw [← hread]
  exact exec_of_takes (i := .rdCr y) ⟨hc, admitted_of_half_or_word hy⟩

/-- Settles O13: the word passes every check of WR_CR. -/
theorem wrCrStoresAnAdmittedWord : Obligations.WrCrStoresAnAdmittedWord := by
  unfold Obligations.WrCrStoresAnAdmittedWord
  intro z v s n hw hc hz hn himpl hphase hmode
  rw [← crOperand_eq s.cfg hw v] at hn
  subst hn
  refine exec_of_takes (i := .wrCr z v) ⟨hc, admitted_of_half_or_word hz,
    bne_eq_false_iff_eq.2 himpl, hphase, fun hspe => ?_⟩
  obtain ⟨hsame, hm, hssm, hssi⟩ := hmode hspe
  exact ⟨bne_eq_false_iff_eq.2 hsame, hm, hssm, hssi⟩

/-- Settles O14: WR_CR's own rule, one check after another. -/
theorem wrCrStopsInTheOrderOfItsChecks : Obligations.WrCrStopsInTheOrderOfItsChecks := by
  unfold Obligations.WrCrStopsInTheOrderOfItsChecks
  intro z v s n hw hc hz hn
  rw [exec_wrCr hc (admitted_of_half_or_word hz), crOperand_eq s.cfg hw v, ← hn]
  refine ⟨fun hr => writeCr_reserved (hasReservedCrBit_iff.2 hr), fun himpl => ?_⟩
  have hr : hasReservedCrBit s.cfg n = false := bne_eq_false_iff_eq.2 himpl
  refine ⟨writeCr_busy hr, fun hphase hspe =>
    ⟨fun hmode => writeCr_modeChange hr hphase hspe (changesMode_iff.2 hmode), fun hsame => ?_⟩⟩
  have hmode : changesMode s.cfg s.cr n = false := bne_eq_false_iff_eq.2 hsame
  exact ⟨writeCr_slave hr hphase hspe hmode, fun hm =>
    ⟨writeCr_hardwareNss hr hphase hspe hmode hm, writeCr_modeFault hr hphase hspe hmode hm⟩⟩

/-- Settles O15: the enable word has no reserved bit and sets SPE, and its MSTR bit differs from
that of CR = 0. -/
theorem enablingInOneWriteFaults : Obligations.EnablingInOneWriteFaults := by
  unfold Obligations.EnablingInOneWriteFaults
  intro z d s hw hcr hd hc hz hphase hzero
  have hr := enableWord_noReservedBit (c := s.cfg) hd
  have hoperand : crOperand s.cfg ((enableWord s.cfg d).setWidth 32) = enableWord s.cfg d :=
    crOperand_of_noReservedBit hw hcr hr fun j hj => by
      have hreg := s.cfg.regw.isLt
      rw [BitVec.getLsbD_setWidth, decide_eq_true (by omega), Bool.true_and]
  have hmode : changesMode s.cfg s.cr (enableWord s.cfg d) = true :=
    changesMode_of_mstr (by simp [hzero, mstr]) (enableWord_fields s.cfg d).1
  rw [exec_wrCr hc (admitted_of_half_or_word hz), hoperand,
    writeCr_modeChange hr hphase (spe_enableWord ..) hmode, hzero]

/-- Settles O16: the bits of the SR view, which depends on three bits under the default layout. -/
theorem rdSrReturnsTheThreeFlags : Obligations.RdSrReturnsTheThreeFlags := by
  unfold Obligations.RdSrReturnsTheThreeFlags
  refine ⟨fun z s hsr hw hc hz => ?_, fun z s t v hcfg h hv => ?_⟩
  · obtain ⟨htxe, hbsy, hrxne⟩ := srTest_srView s hsr hw
    refine ⟨busOfHalf s.cfg (srView s),
      exec_of_takes (i := .rdSr z) ⟨hc, admitted_of_half_or_word hz⟩, hrxne, htxe, ?_, ?_⟩
    · rw [← srTest, hbsy, bsy, beq_iff_eq]
    · intro j hne_rxne hne_txe hne_bsy
      simp [busOfHalf_getLsbD, srView_getLsbD, hne_rxne, hne_txe, hne_bsy]
  · obtain ⟨-, rfl⟩ := exec_next_iff.1 h
    have hv : busOfHalf s.cfg (srView s) = v := Output.readValue.inj hv
    have hvalues : ∀ busy txEmpty rxFull : Bool, busOfHalf .default
        (flagAt busy Config.default.srBsy ||| flagAt txEmpty Config.default.srTxe |||
          flagAt rxFull Config.default.srRxne) ∈
        ([0x0000, 0x0001, 0x0002, 0x0003, 0x0080, 0x0081, 0x0082, 0x0083] : List Word) := by decide
    rw [← hv, srView, hcfg]
    exact hvalues ..

/-- Settles O17: the step is taken and its update is none. -/
theorem wrSrChangesNothing : Obligations.WrSrChangesNothing := by
  unfold Obligations.WrSrChangesNothing
  exact fun z v s hc hz => exec_of_takes (i := .wrSr z v) ⟨hc, admitted_of_half_or_word hz⟩

/-- Settles O18: RXB reaches the HOST whole. -/
theorem rdDrReturnsRxbAndClearsRxne : Obligations.RdDrReturnsRxbAndClearsRxne := by
  unfold Obligations.RdDrReturnsRxbAndClearsRxne
  intro z s hw hc hz hfull
  rw [← busOfByte_eq s.cfg hw]
  exact (hostStep_pass hc (admitted_of_half_or_word hz)).trans (readDr_of_full hfull)

/-- Settles O19: the byte is the free value that the read draws. -/
theorem earlyRdDrReturnsSomeByte : Obligations.EarlyRdDrReturnsSomeByte := by
  unfold Obligations.EarlyRdDrReturnsSomeByte
  intro z s hw hc hz hempty
  refine ⟨Config.freeByte s.draws, ?_⟩
  rw [← busOfByte_eq s.cfg hw]
  exact (hostStep_pass hc (admitted_of_half_or_word hz)).trans (readDr_of_empty hempty)

/-- Settles O20: the operand of the write is the low byte of the data. -/
theorem wrDrStagesTheLowByte : Obligations.WrDrStagesTheLowByte := by
  unfold Obligations.WrDrStagesTheLowByte
  intro z v s hw hc hz hempty
  rw [← drOperand_eq s.cfg hw v]
  exact exec_of_takes (i := .wrDr z v) ⟨hc, admitted_of_half_or_word hz, hempty⟩

/-- Settles O21: the own rule of WR_DR, once the common checks have passed. -/
theorem wrDrWhileFullFaults : Obligations.WrDrWhileFullFaults := by
  unfold Obligations.WrDrWhileFullFaults
  intro z v s hw hc hz hfull
  rw [← drOperand_eq s.cfg hw v]
  exact (hostStep_pass hc (admitted_of_half_or_word hz)).trans (writeDr_of_full hfull)

/-- Settles O22: once the common checks have passed, the size is no operand of a step's own rule. -/
theorem bothSizesDoTheSame : Obligations.BothSizesDoTheSame := by
  unfold Obligations.BothSizesDoTheSame
  intro s v hc
  have hsame (record record' : Record) (k : State → Result) :
      hostStep record .half s k = hostStep record' .word s k :=
    (hostStep_pass hc rfl).trans (hostStep_pass hc rfl).symm
  exact ⟨hsame .., hsame .., hsame .., hsame .., hsame .., hsame ..⟩

/-- Settles O42: the causes of a fault of `exec_fault_cases`, with the data of the two writes. -/
theorem faultsHaveTheirListedCause : Obligations.FaultsHaveTheirListedCause := by
  unfold Obligations.FaultsHaveTheirListedCause
  intro i s f hw h
  obtain ⟨hagent, hc, rfl⟩ | ⟨z, v, rfl, hcr⟩ | ⟨z, v, rfl, hdr⟩ := exec_fault_cases h
  · exact ⟨hagent, hc, rfl⟩
  · have hdata := crOperand_eq s.cfg hw v
    obtain ⟨hphase, rfl⟩ | ⟨hspe, hmode, rfl⟩ | ⟨hspe, hm, hssm, hssi, rfl⟩ := writeCr_fault hcr
    · exact ⟨⟨z, v, rfl, hdata⟩, hphase, rfl⟩
    · exact ⟨⟨z, v, rfl, hdata⟩, rfl, hspe, changesMode_iff.1 hmode⟩
    · exact ⟨⟨z, v, rfl, hdata⟩, hspe, hm, hssm, hssi⟩
  · obtain ⟨hfull, rfl⟩ := writeDr_fault hdr
    exact ⟨⟨z, v, rfl, drOperand_eq s.cfg hw v⟩, hfull, rfl⟩

/-- Settles O43: the causes of a refusal of `exec_refused_cases`, with the data of WR_CR. -/
theorem refusalsHaveTheirListedCause : Obligations.RefusalsHaveTheirListedCause := by
  unfold Obligations.RefusalsHaveTheirListedCause
  refine ⟨fun i s r hw h => ?_, fun i s hagent => ?_⟩
  · obtain ⟨rfl, z, hsize, hz⟩ | ⟨z, v, rfl, hcr⟩ | hseq := exec_refused_cases h
    · refine .inl ⟨rfl, ?_⟩
      cases z with
      | byte => exact .inl hsize
      | reserved => exact .inr hsize
      | half | word => cases hz
    · refine .inr (.inl ⟨z, v, _, rfl, crOperand_eq s.cfg hw v, ?_⟩)
      exact (writeCr_refused hcr).imp_left fun ⟨e, hr⟩ => ⟨e, hasReservedCrBit_iff.1 hr⟩
    · exact .inr (.inr hseq)
  · cases i with
    | envReset | envClkOn | envPins => exact ⟨_, rfl⟩
    | _ => cases hagent

end Sys2Proof.Proofs

/-! ## The SEQ steps

When each is taken and what it moves (spec/42_serializer.md rules R173 to R176, R183), and the
equivalence of the bit level and the byte level (R177). -/

namespace Sys2Proof.Machine

/-! ### The guards -/

/-- A SEQ step that is taken is one of four, in its guard. -/
theorem takes_seq_cases {i : Instr} {s : State} (hi : i.agent = .seq) (h : s.Takes i) :
    (i = .hwLoad ∧ active s = true ∧ s.phase = .idle ∧ s.txbFull = true) ∨
    (∃ m, i = .hwShift m ∧ s.phase = .shift ∧ s.bitcnt.toNat < 8) ∨
    (i = .hwComplete ∧ s.phase = .shift ∧ s.bitcnt = 8) ∨
    (∃ r, i = .hwFrame r ∧ s.phase = .shift ∧ s.bitcnt = 0) := by
  cases i with
  | hwLoad => exact .inl ⟨rfl, loadEnabled_iff.1 h⟩
  | hwShift m => exact .inr (.inl ⟨m, rfl, (shiftEnabled_iff.1 h).2⟩)
  | hwComplete => exact .inr (.inr (.inl ⟨rfl, (completeEnabled_iff.1 h).2⟩))
  | hwFrame r => exact .inr (.inr (.inr ⟨r, rfl, (frameEnabled_iff.1 h).2⟩))
  | _ => cases hi

/-- While idle, the only SEQ step is HW_LOAD of a staged byte, in an ACTIVE block. -/
theorem takes_seq_of_idle {i : Instr} {s : State} (hphase : s.phase = .idle) (hi : i.agent = .seq)
    (h : s.Takes i) : i = .hwLoad ∧ active s = true ∧ s.txbFull = true := by
  have hno : s.phase ≠ .shift := fun hshift => absurd (hphase.symm.trans hshift) nofun
  obtain ⟨rfl, hactive, -, hfull⟩ | ⟨m, -, hshift, -⟩ | ⟨-, hshift, -⟩ | ⟨r, -, hshift, -⟩ :=
    takes_seq_cases hi h
  · exact ⟨rfl, hactive, hfull⟩
  all_goals exact absurd hshift hno

theorem no_seq_of_quiet {i : Instr} {s : State} (h : quiet s = true) (hi : i.agent = .seq) :
    ¬ s.Takes i := by
  obtain ⟨hempty, hphase⟩ := quiet_iff.1 h
  intro htakes
  obtain ⟨-, -, hfull⟩ := takes_seq_of_idle hphase hi htakes
  exact absurd (hempty.symm.trans hfull) nofun

/-- In the guard of HW_SHIFT, bitcnt rises without a wrap. -/
theorem bitcnt_succ {n : BitVec 4} (h : n.toNat < 8) : (n + 1).toNat = n.toNat + 1 := by
  rw [BitVec.toNat_add, show (1 : BitVec 4).toNat = 1 from rfl]
  omega

/-! ### The data path -/

/-- One shift as arithmetic (42_serializer.md R174, R178). -/
theorem shiftIn_toNat (c : Config) (v : Byte) (m : Bool) :
    (shiftIn c v m).toNat =
      if c.msbFirst then (2 * v.toNat + m.toNat) % 256 else v.toNat / 2 + 128 * m.toNat := by
  have hleft : ∀ (m : Bool) (v : Byte),
      (v <<< 1 ||| (BitVec.ofBool m).setWidth 8).toNat = (2 * v.toNat + m.toNat) % 256 := by decide
  have hright : ∀ (m : Bool) (v : Byte),
      (v >>> 1 ||| (BitVec.ofBool m).setWidth 8 <<< 7).toNat = v.toNat / 2 + 128 * m.toNat := by
    decide
  unfold shiftIn
  split_ifs
  · exact hleft m v
  · exact hright m v

/-- In the order of the wire a shift moves every bit up by one place, and m enters as the last. -/
theorem shiftIn_wireBit (c : Config) (v : Byte) (m : Bool) {j : Nat} (hj : j < 8) :
    (shiftIn c v m).getLsbD (c.wireBit j) =
      if j < 7 then v.getLsbD (c.wireBit (j + 1)) else m := by
  have hlast : j < 7 ∨ j = 7 := by omega
  rcases hlast with hlt | rfl
  · rw [if_pos hlt]
    cases h : c.msbFirst with
    | true =>
      have hplace : ¬ 7 - j = 0 ∧ 7 - j < 8 ∧ 7 - j - 1 = 6 - j := by omega
      simp [shiftIn, Config.wireBit, h, hplace, -BitVec.getLsbD_eq_getElem]
    | false => simp [shiftIn, Config.wireBit, h, hlt, Nat.add_comm, -BitVec.getLsbD_eq_getElem]
  · cases h : c.msbFirst <;> simp [shiftIn, Config.wireBit, h]

theorem wireBit_lt {c : Config} {k : Nat} (hk : k < 8) : c.wireBit k < 8 := by
  unfold Config.wireBit
  split_ifs <;> omega

/-- The order of the wire is its own inverse. -/
theorem wireBit_wireBit {c : Config} {k : Nat} (hk : k < 8) : c.wireBit (c.wireBit k) = k := by
  unfold Config.wireBit
  split_ifs <;> omega

/-- Two bytes with the same bits in the order of the wire are the same. -/
theorem byte_ext_wire {c : Config} {v w : Byte}
    (h : ∀ j, j < 8 → v.getLsbD (c.wireBit j) = w.getLsbD (c.wireBit j)) : v = w := by
  apply BitVec.eq_of_getLsbD_eq
  intro j hj
  have hbit := h (c.wireBit j) (wireBit_lt hj)
  rwa [wireBit_wireBit hj] at hbit

/-- What the register x holds when k bits of a frame are done that began with the byte v, where the
peer's bits are those of b: the rest of v first, in the order of the wire, then the bits taken
in. -/
def HoldsMidFrame (c : Config) (v : Byte) (b : Nat → Bool) (k : Nat) (x : Byte) : Prop :=
  ∀ j, j < 8 → x.getLsbD (c.wireBit j) =
    if j + k < 8 then v.getLsbD (c.wireBit (j + k)) else b (j + k - 8)

theorem HoldsMidFrame.start (c : Config) (v : Byte) (b : Nat → Bool) : HoldsMidFrame c v b 0 v :=
  fun _ hj => (if_pos hj).symm

/-- Only the bits taken in so far matter. -/
theorem HoldsMidFrame.congr {c : Config} {v x : Byte} {b b' : Nat → Bool} {k : Nat}
    (h : HoldsMidFrame c v b k x) (hb : ∀ j, j < k → b' j = b j) : HoldsMidFrame c v b' k x := by
  intro j hj
  rw [h j hj]
  split_ifs
  · rfl
  · rw [hb _ (by omega)]

theorem HoldsMidFrame.shiftIn {c : Config} {v x : Byte} {b : Nat → Bool} {k : Nat} (hk : k < 8)
    (h : HoldsMidFrame c v b k x) : HoldsMidFrame c v b (k + 1) (shiftIn c x (b k)) := by
  intro j hj
  rw [shiftIn_wireBit c x _ hj]
  split_ifs with hlt hrest hrest
  · rw [h (j + 1) (by omega), if_pos (by omega), Nat.add_right_comm, Nat.add_assoc]
  · rw [h (j + 1) (by omega), if_neg (by omega), Nat.add_right_comm, Nat.add_assoc]
  · omega
  · rw [show j + (k + 1) - 8 = k by omega]

/-- The bit sent next is the next one of the loaded byte. -/
theorem HoldsMidFrame.lineBit_eq {c : Config} {v x : Byte} {b : Nat → Bool} {k : Nat} (hk : k < 8)
    (h : HoldsMidFrame c v b k x) : lineBit c x = v.getLsbD (c.wireBit k) := by
  rw [lineBit, h 0 (by decide), Nat.zero_add, if_pos hk]

/-- After eight bits the register holds the peer's. -/
theorem HoldsMidFrame.bits_eq {c : Config} {v x : Byte} {b : Nat → Bool}
    (h : HoldsMidFrame c v b 8 x) {j : Nat} (hj : j < 8) : x.getLsbD (c.wireBit j) = b j := by
  rw [h j hj, if_neg (by omega), Nat.add_sub_cancel]

/-- RXB at the end of a frame: the new byte, unless KEEP_OLD keeps an unread one (42_serializer.md
R184). -/
theorem deliver_rxb_eq (s : State) : s.deliver.rxb =
    if s.rxbFull = true ∧ s.cfg.rxOverrun = .keepOld then s.rxb else s.shr := by
  rw [State.deliver_rxb]
  cases s.rxbFull <;> cases s.cfg.rxOverrun <;> rfl

theorem finishFrame_of_empty {s : State} (h : s.txbFull = false) :
    finishFrame s = s.deliver.endFrame := by
  simp [finishFrame, h]

theorem finishFrame_of_full {s : State} (h : s.txbFull = true) :
    finishFrame s = s.deliver.loadFrame := by
  simp [finishFrame, h]

/-! ### Eight shifts are one frame -/

/-- A list of steps is taken when its two parts are, one after the other. -/
theorem execTrace_append_next {l l' : List Instr} {s t u : State} {os os' : List Output}
    (h : execTrace l s = .next (os, t)) (h' : execTrace l' t = .next (os', u)) :
    execTrace (l ++ l') s = .next (os ++ os', u) := by
  induction l generalizing s os with
  | nil => cases h; exact h'
  | cons i l ih =>
    simp only [execTrace] at h
    split at h <;> try cases h
    rename_i r hi
    split at h <;> cases h
    rename_i hl
    exact execTrace_cons_next hi (ih hl)

theorem execTrace_single {i : Instr} {s t : State} (h : exec i s = .next t) :
    execTrace [i] s = .next ([t.output], t) :=
  execTrace_cons_next h (execTrace_nil t)

/-- The state after k shifts of the bits b 0, b 1, ..., with what the last gave out. -/
def State.shifted (s : State) (b : Nat → Bool) : Nat → State
  | 0 => s
  | k + 1 => ((s.shifted b k).shiftBit (b k)).withOutput
      (toPeer s (.peerBit (s.shr.getLsbD (s.cfg.wireBit k))))

/-- Shifts write SHR, bitcnt, the two lines and what is given out, nothing else. -/
theorem shifted_frame (s : State) (b : Nat → Bool) (k : Nat) :
    s.shifted b k = { s with
      shr := (s.shifted b k).shr, bitcnt := (s.shifted b k).bitcnt, sck := (s.shifted b k).sck,
      mosi := (s.shifted b k).mosi, output := (s.shifted b k).output } := by
  induction k with
  | zero => rfl
  | succ k ih => rw [State.shifted, ih]; rfl

@[simp] theorem shifted_cfg (s : State) (b : Nat → Bool) (k : Nat) :
    (s.shifted b k).cfg = s.cfg := by rw [shifted_frame]

theorem shifted_holds (s : State) (b : Nat → Bool) {k : Nat} (hk : k ≤ 8) :
    HoldsMidFrame s.cfg s.shr b k (s.shifted b k).shr := by
  induction k with
  | zero => exact HoldsMidFrame.start s.cfg s.shr b
  | succ k ih =>
    rw [State.shifted, State.withOutput_shr, State.shiftBit_shr, shifted_cfg]
    exact (ih (by omega)).shiftIn hk

theorem shifted_bitcnt {s : State} (b : Nat → Bool) {k : Nat} (h : s.bitcnt = 0) :
    (s.shifted b k).bitcnt = BitVec.ofNat 4 k := by
  induction k with
  | zero => exact h
  | succ k ih => simp [State.shifted, ih, BitVec.ofNat_add]

theorem exec_shifted {s : State} (b : Nat → Bool) {k : Nat} (hc : s.clkEn = true)
    (hphase : s.phase = .shift) (hzero : s.bitcnt = 0) (hk : k < 8) :
    exec (.hwShift (b k)) (s.shifted b k) = .next (s.shifted b (k + 1)) := by
  have hclk : (s.shifted b k).clkEn = true := by rw [shifted_frame]; exact hc
  have hshift : (s.shifted b k).phase = .shift := by rw [shifted_frame]; exact hphase
  have hbitcnt : (s.shifted b k).bitcnt.toNat < 8 := by
    rw [shifted_bitcnt b hzero, BitVec.toNat_ofNat, Nat.mod_eq_of_lt (by omega)]
    exact hk
  have hgives : (s.shifted b k).gives (.hwShift (b k)) =
      toPeer s (.peerBit (s.shr.getLsbD (s.cfg.wireBit k))) := by
    have hpins : (s.shifted b k).pinsRouted = s.pinsRouted := by rw [shifted_frame]
    rw [State.gives, shifted_cfg, (shifted_holds s b (by omega)).lineBit_eq hk, toPeer, toPeer,
      hpins]
  rw [exec_of_takes (i := .hwShift (b k)) (shiftEnabled_iff.2 ⟨hclk, hshift, hbitcnt⟩), hgives]
  rfl

theorem execTrace_shifts {s : State} (b : Nat → Bool) {k : Nat} (hc : s.clkEn = true)
    (hphase : s.phase = .shift) (hzero : s.bitcnt = 0) (hk : k ≤ 8) :
    execTrace ((List.range k).map fun j => .hwShift (b j)) s =
      .next ((List.range k).map fun j => toPeer s (.peerBit (s.shr.getLsbD (s.cfg.wireBit j))),
        s.shifted b k) := by
  induction k with
  | zero => rfl
  | succ k ih =>
    rw [List.range_succ, List.map_append, List.map_append]
    exact execTrace_append_next (ih (by omega))
      (execTrace_single (exec_shifted b hc hphase hzero hk))

/-- A frame ends the same after eight shifts as after one step that fills SHR: bitcnt is cleared,
sck is at rest, and of mosi only the last bit sent is left, with CPHA = 1 and a byte staged. -/
theorem finishFrame_shifted (s : State) (r : Byte) :
    (finishFrame (s.shifted (fun k => r.getLsbD (s.cfg.wireBit k)) 8)).withOutput .nothing =
      (finishFrame (s.fillFrame r)).withOutput .nothing := by
  have hframe := shifted_frame s (fun k => r.getLsbD (s.cfg.wireBit k)) 8
  have hshr : (s.shifted (fun k => r.getLsbD (s.cfg.wireBit k)) 8).shr = r :=
    byte_ext_wire fun j hj => (shifted_holds s _ (Nat.le_refl 8)).bits_eq hj
  have hsck : (s.shifted (fun k => r.getLsbD (s.cfg.wireBit k)) 8).sck = s.cfg.cpol := by
    rw [State.shifted, State.withOutput_sck, State.shiftBit_sck, shifted_cfg]
  have hlast : lineBit s.cfg (s.shifted (fun k => r.getLsbD (s.cfg.wireBit k)) 7).shr =
      lastBit s.cfg s.shr := (shifted_holds s _ (by decide)).lineBit_eq (by decide)
  have hmosi : s.cfg.cpha = true →
      (s.shifted (fun k => r.getLsbD (s.cfg.wireBit k)) 8).mosi = lastBit s.cfg s.shr := by
    intro hcpha
    rw [State.shifted, State.withOutput_mosi, State.shiftBit_mosi, shifted_cfg, hcpha, if_pos rfl,
      hlast]
  rw [hframe, hshr, hsck]
  generalize (s.shifted _ 8).mosi = line at hmosi
  cases hfull : s.txbFull with
  | false =>
    simp [finishFrame, State.fillFrame, State.deliver, State.endFrame, State.withOutput, hfull]
  | true =>
    cases hcpha : s.cfg.cpha <;>
      simp [finishFrame, State.fillFrame, State.deliver, State.loadFrame, State.withOutput, hfull,
        hcpha, hmosi]

end Sys2Proof.Machine

namespace Sys2Proof.Proofs

open Sys2Proof.Machine

/-- Settles O23: the premises are the guard of HW_LOAD. -/
theorem hwLoadStartsTheFrame : Obligations.HwLoadStartsTheFrame := by
  unfold Obligations.HwLoadStartsTheFrame
  intro s hc hspe hm hssm hssi hphase hfull
  exact exec_of_takes (i := .hwLoad)
    (loadEnabled_iff.2 ⟨active_iff.2 ⟨hc, hspe, hm, hssm, hssi⟩, hphase, hfull⟩)

/-- Settles O24: the new register is `shiftIn`, whose value is `shiftIn_toNat`. -/
theorem hwShiftMovesOneBit : Obligations.HwShiftMovesOneBit := by
  unfold Obligations.HwShiftMovesOneBit
  intro m s f hc hphase hbitcnt hf
  subst hf
  refine ⟨shiftIn s.cfg s.shr m, shiftIn_toNat .., bitcnt_succ hbitcnt, ?_, rfl⟩
  rw [exec_of_takes (i := .hwShift m) (shiftEnabled_iff.2 ⟨hc, hphase, hbitcnt⟩)]
  cases hcpha : s.cfg.cpha <;>
    simp [State.after, State.shiftBit, State.withOutput, State.gives, toPeer, lineBit,
      Config.wireBit, hcpha]

/-- Settles O25: the delivery, then the branch of the end of a frame that TXE chooses. -/
theorem hwCompleteDeliversTheByte : Obligations.HwCompleteDeliversTheByte := by
  unfold Obligations.HwCompleteDeliversTheByte
  intro s b hc hphase hbitcnt hb
  rw [← deliver_rxb_eq] at hb
  subst hb
  rw [exec_of_takes (i := .hwComplete) (completeEnabled_iff.2 ⟨hc, hphase, hbitcnt⟩), State.after]
  refine ⟨fun hempty => ?_, fun hfull => ?_⟩
  · rw [finishFrame_of_empty hempty]
    exact ⟨_, rfl⟩
  · rw [finishFrame_of_full hfull]
    rfl

/-- Settles O26: the frame ends as HW_COMPLETE ends it, with the peer's byte in SHR. -/
theorem hwFrameRunsAWholeFrame : Obligations.HwFrameRunsAWholeFrame := by
  unfold Obligations.HwFrameRunsAWholeFrame
  intro r s b hc hphase hbitcnt hb
  have hrxb : b = (s.fillFrame r).deliver.rxb := by rw [hb, deliver_rxb_eq]; rfl
  subst hrxb
  rw [exec_of_takes (i := .hwFrame r) (frameEnabled_iff.2 ⟨hc, hphase, hbitcnt⟩), State.after]
  refine ⟨fun hempty => ?_, fun hfull => ?_⟩
  · rw [finishFrame_of_empty (s := s.fillFrame r) hempty]
    exact ⟨_, rfl⟩
  · have hline : (s.fillFrame r).deliver.loadFrame.mosi =
        if s.cfg.cpha then s.shr.getLsbD (if s.cfg.msbFirst then 0 else 7)
        else s.txb.getLsbD (if s.cfg.msbFirst then 7 else 0) := by
      cases hcpha : s.cfg.cpha <;> simp [hcpha, lastBit, lineBit, Config.wireBit]
    rw [finishFrame_of_full (s := s.fillFrame r) hfull, ← hline]
    rfl

/-- Settles O27: each guard is the condition under which its step is taken. -/
theorem seqStepsNeedTheirGuards : Obligations.SeqStepsNeedTheirGuards := by
  unfold Obligations.SeqStepsNeedTheirGuards
  intro s
  rw [← loadEnabled_iff, ← shiftEnabled_iff, ← completeEnabled_iff, ← frameEnabled_iff]
  exact ⟨exec_hwLoad_refused, fun m => exec_hwShift_refused, exec_hwComplete_refused,
    fun r => exec_hwFrame_refused⟩

/-- Settles O28: the guards of the three steps exclude one another by phase and bitcnt. -/
theorem atMostOneSeqStepIsEnabled : Obligations.AtMostOneSeqStepIsEnabled := by
  unfold Obligations.AtMostOneSeqStepIsEnabled
  intro s
  have hload {t} (h : exec .hwLoad s = .next t) : s.phase = .idle :=
    (loadEnabled_iff.1 (takes_of_next h)).2.1
  have hshift {m t} (h : exec (.hwShift m) s = .next t) : s.phase = .shift ∧ s.bitcnt.toNat < 8 :=
    (shiftEnabled_iff.1 (takes_of_next h)).2
  have hcomplete {t} (h : exec .hwComplete s = .next t) : s.phase = .shift ∧ s.bitcnt = 8 :=
    (completeEnabled_iff.1 (takes_of_next h)).2
  refine ⟨fun m t u ⟨h, h'⟩ => ?_, fun t u ⟨h, h'⟩ => ?_, fun m t u ⟨h, h'⟩ => ?_,
    fun hquiet i t hi h => no_seq_of_quiet hquiet hi (takes_of_next h)⟩
  · exact absurd ((hload h).symm.trans (hshift h').1) nofun
  · exact absurd ((hload h).symm.trans (hcomplete h').1) nofun
  · have hlt := (hshift h).2
    rw [(hcomplete h').2] at hlt
    exact absurd hlt (by decide)

/-- Settles O29: for each step its guard and its update. -/
theorem sequencerMovesByItsTable : Obligations.SequencerMovesByItsTable := by
  unfold Obligations.SequencerMovesByItsTable
  intro i s t h
  obtain ⟨htakes, rfl⟩ := exec_next_iff.1 h
  have hend : i = .hwComplete ∨ (∃ r, i = .hwFrame r) → s.phase = .shift ∧
      (s.after i).bitcnt = 0 ∧ (s.txbFull = false → (s.after i).phase = .idle) ∧
      (s.txbFull = true → (s.after i).phase = .shift) := by
    rintro (rfl | ⟨r, rfl⟩)
    · obtain ⟨-, hphase, -⟩ := completeEnabled_iff.1 htakes
      refine ⟨hphase, finishFrame_bitcnt s, fun h => ?_, fun h => ?_⟩ <;> simp [State.after, h]
    · obtain ⟨-, hphase, -⟩ := frameEnabled_iff.1 htakes
      refine ⟨hphase, finishFrame_bitcnt _, fun h => ?_, fun h => ?_⟩ <;>
        simp [State.after, h]
  refine ⟨?_, ?_, hend, ?_, ?_, fun hother => ?_⟩
  · rintro rfl
    exact ⟨(loadEnabled_iff.1 htakes).2.1, rfl, rfl⟩
  · rintro m rfl
    obtain ⟨-, hphase, hbitcnt⟩ := shiftEnabled_iff.1 htakes
    exact ⟨hphase, hbitcnt, hphase, bitcnt_succ hbitcnt⟩
  · rintro rfl
    exact (completeEnabled_iff.1 htakes).2.2
  · rintro r rfl
    exact (frameEnabled_iff.1 htakes).2.2
  · refine after_phase_bitcnt ?_ ?_
    · rintro rfl; simp [Instr.agent] at hother
    · intro hseq
      rcases hother with hhost | rfl | rfl
      · exact absurd (hseq.symm.trans hhost) nofun
      all_goals cases hseq

/-- Settles O30: no update of a SEQ step writes the configuration, and none sets txb_full or clears
rxb_full. -/
theorem seqStepsKeepWhatPollingReliesOn : Obligations.SeqStepsKeepWhatPollingReliesOn := by
  unfold Obligations.SeqStepsKeepWhatPollingReliesOn
  intro i s t hi h
  obtain ⟨o, rfl⟩ := exec_next h
  cases i with
  | hwLoad | hwShift | hwComplete | hwFrame => simp [State.after, txe, rxne]
  | _ => cases hi

/-- Settles O31: eight shifts and one step that fills SHR end in the same state when the frame ends
(`finishFrame_shifted`). -/
theorem eightShiftsAndACompleteAreOneFrame : Obligations.EightShiftsAndACompleteAreOneFrame := by
  unfold Obligations.EightShiftsAndACompleteAreOneFrame
  intro s r hc hphase hzero
  have hshifts := execTrace_shifts (fun k => r.getLsbD (s.cfg.wireBit k)) hc hphase hzero
    (Nat.le_refl 8)
  have hcomplete : completeEnabled (s.shifted (fun k => r.getLsbD (s.cfg.wireBit k)) 8) = true := by
    rw [completeEnabled_iff, shifted_bitcnt _ hzero, shifted_frame]
    exact ⟨hc, hphase, rfl⟩
  refine ⟨_, _, _, execTrace_append_next hshifts
      (execTrace_single (exec_of_takes (i := .hwComplete) hcomplete)),
    exec_of_takes (i := .hwFrame r) (frameEnabled_iff.2 ⟨hc, hphase, hzero⟩),
    finishFrame_shifted s r, fun hpins => ?_⟩
  have htoPeer (o : Output) : toPeer s o = o := if_pos hpins
  exact ⟨by simp only [htoPeer]; rfl, htoPeer _⟩

end Sys2Proof.Proofs

/-! ## Routing the pins

ENV_PINS, the field of the pin controller, and that no step's effect on the registers depends on the
routing (spec/40_clock_pin_gating.md rules R134 to R137). -/

namespace Sys2Proof.Machine

theorem routePins_of_routed {s : State} (h : s.pinsRouted = true) : s.routePins = s := by
  rw [State.routePins, ← h]

/-- The state with the routing bit at b. -/
def State.withPins (s : State) (b : Bool) : State := { s with pinsRouted := b }

/-- The two outcomes differ at most in the routing and in what the peer samples. -/
def SameButRouting (r q : Result) : Prop :=
  match r, q with
  | .next t, .next u =>
    { t with pinsRouted := true, output := .nothing } =
      { u with pinsRouted := true, output := .nothing } ∧
    ∀ v, t.output = .readValue v ↔ u.output = .readValue v
  | .fault f, .fault g => f = g
  | .refused a, .refused b => a = b
  | _, _ => False

/-- A check whose condition does not depend on the routing. -/
theorem SameButRouting.ite {c : Prop} [Decidable c] {r r' q q' : Result} (h : SameButRouting r r')
    (h' : SameButRouting q q') : SameButRouting (if c then r else q) (if c then r' else q') := by
  split_ifs
  · exact h
  · exact h'

section
variable (s : State) (b b' : Bool)

theorem sameButRouting_done : SameButRouting (done (s.withPins b)) (done (s.withPins b')) :=
  ⟨rfl, fun _ => Iff.rfl⟩

theorem sameButRouting_returning (v : Word) :
    SameButRouting (returning v (s.withPins b)) (returning v (s.withPins b')) :=
  ⟨rfl, fun _ => Iff.rfl⟩

/-- What the peer samples is no value that a read returns. -/
theorem toPeer_ne_readValue {o : Output} (ho : ∀ v, o ≠ .readValue v) (v : Word) :
    toPeer s o ≠ .readValue v := by
  unfold toPeer
  split_ifs
  · exact ho v
  · exact nofun

theorem sameButRouting_toPeer {o : Output} (ho : ∀ v, o ≠ .readValue v) :
    SameButRouting (.next ((s.withPins b).withOutput (toPeer (s.withPins b) o)))
      (.next ((s.withPins b').withOutput (toPeer (s.withPins b') o))) :=
  ⟨rfl, fun v => iff_of_false (toPeer_ne_readValue _ ho v) (toPeer_ne_readValue _ ho v)⟩

variable {s b b'} in
/-- The common checks of a HOST step read the clock and the size only. -/
theorem SameButRouting.hostStep {record : Record} {z : AccessSize} {k : State → Result}
    (h : SameButRouting (k (s.withPins b)) (k (s.withPins b'))) :
    SameButRouting (hostStep record z (s.withPins b) k) (hostStep record z (s.withPins b') k) :=
  .ite rfl (.ite rfl h)

theorem sameButRouting_writeCr (n : Half) :
    SameButRouting (writeCr n (s.withPins b)) (writeCr n (s.withPins b')) :=
  .ite rfl <| .ite rfl <| .ite rfl <| .ite rfl <| .ite rfl <| .ite rfl <|
    sameButRouting_done (s.setCr n) b b'

theorem sameButRouting_readDr : SameButRouting (readDr (s.withPins b)) (readDr (s.withPins b')) :=
  .ite (sameButRouting_returning s.clearRxne b b' _)
    (sameButRouting_returning (s.clearRxne.drawn 1) b b' _)

theorem sameButRouting_writeDr (v : Byte) :
    SameButRouting (writeDr v (s.withPins b)) (writeDr v (s.withPins b')) :=
  .ite rfl (sameButRouting_done (s.stage v) b b')

/-- The end of a frame does not read the routing. -/
theorem finishFrame_withPins : finishFrame (s.withPins b) = (finishFrame s).withPins b := by
  cases h : s.txbFull with
  | false => rw [finishFrame_of_empty h, finishFrame_of_empty (s := s.withPins b) h]; rfl
  | true => rw [finishFrame_of_full h, finishFrame_of_full (s := s.withPins b) h]; rfl

/-- No step does anything else with the pins routed than with the pins not routed
(40_clock_pin_gating.md R134). -/
theorem exec_sameButRouting (i : Instr) :
    SameButRouting (exec i (s.withPins b)) (exec i (s.withPins b')) := by
  cases i with
  | rdCr | rdSr => exact (sameButRouting_returning s b b' _).hostStep
  | wrSr => exact (sameButRouting_done s b b').hostStep
  | wrCr z v => exact (sameButRouting_writeCr s b b' _).hostStep
  | rdDr => exact (sameButRouting_readDr s b b').hostStep
  | wrDr z v => exact (sameButRouting_writeDr s b b' _).hostStep
  | hwLoad => exact .ite (sameButRouting_done s.loadFrame b b') rfl
  | hwShift m => exact .ite (sameButRouting_toPeer (s.shiftBit m) b b' nofun) rfl
  | hwComplete =>
    refine .ite ?_ rfl
    rw [finishFrame_withPins, finishFrame_withPins]
    exact sameButRouting_done (finishFrame s) b b'
  | hwFrame r =>
    have hfill (p : Bool) : (s.withPins p).fillFrame r = (s.fillFrame r).withPins p := rfl
    refine .ite ?_ rfl
    rw [hfill, hfill, finishFrame_withPins, finishFrame_withPins]
    exact sameButRouting_toPeer (finishFrame (s.fillFrame r)) b b' nofun
  | envReset => exact sameButRouting_done s.resetRegisters false false
  | envClkOn => exact sameButRouting_done s.clockOn b b'
  | envPins => exact sameButRouting_done s true true

end

/-- A mask of w ones at position p, bit by bit. -/
theorem fieldMask_getLsbD {p w j : Nat} (hw : w ≤ 32) (hj : j < 32) :
    (fieldMask p w).getLsbD j = decide (p ≤ j ∧ j < p + w) := by
  have hpow : 2 ^ w ≤ 2 ^ 32 := Nat.pow_le_pow_right (by decide) hw
  have hpos : 0 < 2 ^ w := Nat.two_pow_pos w
  have hones : (1#32 <<< w) - 1#32 = BitVec.ofNat 32 (2 ^ w - 1) := by
    apply BitVec.eq_of_toNat_eq
    simp only [BitVec.toNat_sub, BitVec.toNat_shiftLeft, BitVec.toNat_ofNat,
      Nat.shiftLeft_eq]
    omega
  rw [fieldMask, hones, BitVec.getLsbD_shiftLeft, BitVec.getLsbD_ofNat, Nat.testBit_two_pow_sub_one,
    Bool.eq_iff_iff]
  simp only [Bool.and_eq_true, Bool.not_eq_true', decide_eq_true_eq, decide_eq_false_iff_not]
  omega

/-- A value that fits a field of w bits has no bit from w up. -/
theorem getLsbD_of_fits {n : Word} {w k : Nat} (hn : n.toNat < 2 ^ w) (hk : w ≤ k) :
    n.getLsbD k = false := testBit_of_fits hn hk

theorem setOnly_getLsbD {g n : Word} {p j : Nat} (hj : j < 32) (hp : p ≤ j) :
    (setOnly g p n).getLsbD j = (g.getLsbD j || n.getLsbD (j - p)) := by
  rw [setOnly, BitVec.getLsbD_or, BitVec.getLsbD_shiftLeft]
  simp [hj, Nat.not_lt.2 hp]

theorem clearThenSet_getLsbD {g n : Word} {p w : Nat} (hfield : p + w ≤ 32) (hn : n.toNat < 2 ^ w)
    {j : Nat} (hj : j < 32) : (clearThenSet g p w n).getLsbD j =
      if p ≤ j ∧ j < p + w then n.getLsbD (j - p) else g.getLsbD j := by
  rw [clearThenSet, BitVec.getLsbD_or, BitVec.getLsbD_and, BitVec.getLsbD_not,
    fieldMask_getLsbD (by omega) hj, BitVec.getLsbD_shiftLeft]
  split_ifs with hin
  · simp [hin, hj]
  · by_cases hlow : j < p
    · simp [hin, hj, hlow]
    · simp [hin, hj, getLsbD_of_fits hn (show w ≤ j - p by omega)]

/-- Done twice, the field is n again and the other bits are kept again. -/
theorem clearThenSet_idem {g n : Word} {p w : Nat} (hfield : p + w ≤ 32) (hn : n.toNat < 2 ^ w) :
    clearThenSet (clearThenSet g p w n) p w n = clearThenSet g p w n := by
  apply BitVec.eq_of_getLsbD_eq
  intro j hj
  simp only [clearThenSet_getLsbD hfield hn hj]
  split_ifs <;> rfl

end Sys2Proof.Machine

namespace Sys2Proof.Proofs

open Sys2Proof.Machine

/-- Settles O33: the step is its update `routePins`, which keeps routed pins as they are. -/
theorem envPinsRoutesThePins : Obligations.EnvPinsRoutesThePins := by
  unfold Obligations.EnvPinsRoutesThePins
  intro s
  have hexec : exec .envPins s = done s.routePins := rfl
  exact ⟨hexec, fun hrouted => by rw [hexec, routePins_of_routed hrouted]; rfl⟩

/-- Settles O34, step by step (`exec_sameButRouting`). -/
theorem pinRoutingChangesNothingVisible : Obligations.PinRoutingChangesNothingVisible := by
  unfold Obligations.PinRoutingChangesNothingVisible
  exact fun i s => exec_sameButRouting s false true i

/-- Settles O37, bit by bit; ENV_PINS writes a constant. -/
theorem clearThenSetIsAProjection : Obligations.ClearThenSetIsAProjection := by
  unfold Obligations.ClearThenSetIsAProjection
  refine ⟨fun g n p w hfield hn => ⟨fun j => clearThenSet_getLsbD hfield hn,
    clearThenSet_idem hfield hn, fun j hlow hhigh => setOnly_getLsbD (by omega) hlow⟩,
    fun s t u h h' => ?_⟩
  obtain rfl := execEnvPins_next h
  obtain rfl := execEnvPins_next h'
  rfl

end Sys2Proof.Proofs

/-! ## The two other pseudo-operations

The two writes that set CR up, the codes that are turned away, and receive as a transfer of the
dummy byte (spec/43_driver_sequences.md rules R201, R205, spec/60_exceptions.md rule R238). -/

namespace Sys2Proof.Machine

theorem initializeCall_of_fits {c : Config} {d : Nat} (hd : d < 2 ^ c.brw.val) :
    initializeCall c d = .ok
      [.wrCr .word (busOfHalf c (controlWord c d)),
       .wrCr .word (busOfHalf c (enableWord c d))] := by
  have hfits : ¬ ((d : Int) < 0 ∨ 2 ^ c.brw.val ≤ (d : Int)) := by
    have hcast : (d : Int) < 2 ^ c.brw.val := by exact_mod_cast hd
    omega
  rw [initializeCall, if_neg hfits, Int.toNat_natCast]

theorem initializeCall_rejects {c : Config} {d : Int} (h : d < 0 ∨ 2 ^ c.brw.val ≤ d) :
    initializeCall c d = .error .configurationError ∧
    ((Operation.initializeWith d).start c).nextInstr = none := by
  have hcall : initializeCall c d = .error .configurationError := if_pos h
  refine ⟨hcall, ?_⟩
  rw [Operation.start, hcall]
  rfl

/-- The bus carries a word of implemented bits to CR as it stands. -/
theorem crOperand_busOfHalf {c : Config} (hw : c.WidthsWF) (h : c.CrWF) {n : Half}
    (hn : hasReservedCrBit c n = false) : crOperand c (busOfHalf c n) = n :=
  crOperand_of_noReservedBit hw h hn fun j hj => by
    rw [busOfHalf_getLsbD, decide_eq_true (Nat.lt_of_lt_of_le hj hw.2), Bool.true_and]

theorem spe_controlWord {c : Config} {d : Nat} (h : c.CrWF) (hd : d < 2 ^ c.brw.val) :
    spe c (controlWord c d) = false := by
  obtain ⟨hMstrSpe, -, -, hSpeSsi, hSpeSsm, -, -, hSpe, -⟩ := h
  rw [spe, controlWord_getLsbD_of_outsideBr hd hSpe]
  simp [hSpeSsm, hSpeSsi, hMstrSpe.symm]

/-- SPE is no mode bit. -/
theorem crMode_getLsbD_crSpe {c : Config} (h : c.CrWF) : c.crMode.getLsbD c.crSpe.val = false := by
  obtain ⟨hMstrSpe, -, -, hSpeSsi, hSpeSsm, -, -, hSpe, -⟩ := h
  have hout : ¬ (c.crBrLo ≤ c.crSpe ∧ c.crSpe.val < c.crBrLo.val + c.brw.val) := by
    rcases hSpe with hlow | hhigh <;> omega
  simpa [Config.crMode, -BitVec.getLsbD_eq_getElem, Fin.ext_iff, Fin.val_ne_of_ne hMstrSpe.symm,
    Fin.val_ne_of_ne hSpeSsi, Fin.val_ne_of_ne hSpeSsm] using hout

/-- The enable word keeps the mode of its control word (30_encoding.md R98). -/
theorem changesMode_enableWord {c : Config} (h : c.CrWF) (d : Nat) :
    changesMode c (controlWord c d) (enableWord c d) = false := by
  refine changesMode_eq_false fun j hj => ?_
  have hne : j ≠ c.crSpe.val := by
    rintro rfl
    exact absurd ((crMode_getLsbD_crSpe h).symm.trans hj) nofun
  rw [enableWord_getLsbD, decide_eq_false hne, Bool.or_false]

/-- A word of implemented bits that passes the checks of WR_CR is stored as it stands. -/
theorem exec_wrCr_busOfHalf {s : State} (hw : s.cfg.WidthsWF) (h : s.cfg.CrWF) {n : Half}
    (hc : s.clkEn = true) (hn : s.AdmitsCr n) :
    exec (.wrCr .word (busOfHalf s.cfg n)) s = done (s.setCr n) := by
  obtain ⟨hreserved, hphase, hmode⟩ := hn
  rw [exec_wrCr hc rfl, crOperand_busOfHalf hw h hreserved]
  exact writeCr_next.2 ⟨hreserved, hphase, hmode, rfl⟩

end Sys2Proof.Machine

namespace Sys2Proof.Proofs

open Sys2Proof.Machine

/-- Settles O49: both words pass the checks of WR_CR, the control word because SPE = 0, the enable
word because it keeps the mode. -/
theorem initializeEndsActive : Obligations.InitializeEndsActive := by
  unfold Obligations.InitializeEndsActive
  intro d s hd hcr hw hc hphase
  have hcw := controlWord_noReservedBit (c := s.cfg) hd
  have hew := enableWord_noReservedBit (c := s.cfg) hd
  have hspe := spe_controlWord hcr hd
  obtain ⟨hm, hssm, hssi⟩ := enableWord_fields s.cfg d
  have hstart : s.AdmitsCr (controlWord s.cfg d) :=
    ⟨hcw, hphase, fun h => absurd (hspe.symm.trans h) nofun⟩
  have henable : (s.setCr (controlWord s.cfg d)).AdmitsCr (enableWord s.cfg d) :=
    ⟨hew, hphase, fun _ => ⟨changesMode_enableWord hcr d, hm, hssm, hssi⟩⟩
  exact ⟨_, _, initializeCall_of_fits hd, exec_wrCr_busOfHalf hw hcr hc hstart, hspe,
    exec_wrCr_busOfHalf (s := (s.setCr (controlWord s.cfg d)).withOutput .nothing) hw hcr hc
      henable,
    active_iff.2 ⟨hc, spe_enableWord .., hm, hssm, hssi⟩⟩

/-- Settles O50: 2^3 codes in a field of 3 bits. -/
theorem initializeRejectsOtherCodes : Obligations.InitializeRejectsOtherCodes := by
  unfold Obligations.InitializeRejectsOtherCodes
  refine ⟨fun c d hbrw h => initializeCall_rejects ?_, fun c d => initializeCall_rejects⟩
  have hcodes : (2 : Int) ^ c.brw.val = 8 := by rw [hbrw]; rfl
  omega

/-- Settles O51, position by position. -/
theorem receiveRunsAsTransferOfTheDummy : Obligations.ReceiveRunsAsTransferOfTheDummy := by
  unfold Obligations.ReceiveRunsAsTransferOfTheDummy
  intro dummy p s
  cases p <;> rfl

end Sys2Proof.Proofs

/-! ## POLL

One read of SR, which ends the poll exactly where the flag holds (spec/43_driver_sequences.md rule
R200), and the waits that never end (spec/60_exceptions.md rule R234). -/

namespace Sys2Proof.Machine

theorem holds_eq_srTest {s : State} (hsr : s.cfg.SrWF) (hw : s.cfg.WidthsWF) (f : StatusFlag) :
    srTest (busOfHalf s.cfg (srView s)) (f.position s.cfg) = f.holds s := by
  obtain ⟨htxe, hbsy, hrxne⟩ := srTest_srView s hsr hw
  cases f with
  | txe => exact htxe
  | rxne => exact hrxne
  | bsy => exact hbsy

theorem pollEnds_srView {s : State} (hsr : s.cfg.SrWF) (hw : s.cfg.WidthsWF) (f : StatusFlag)
    (b : Bool) : pollEnds s.cfg f b (busOfHalf s.cfg (srView s)) = (f.holds s == b) := by
  rw [pollEnds, holds_eq_srTest hsr hw]

section
variable {h : HostProgram} {f : StatusFlag} {b : Bool} {s : State}
  (hstage : h.stage = .polling f b)
include hstage

theorem hasReturned_of_polling : h.hasReturned = false := by
  rw [HostProgram.hasReturned, hstage]
  rfl

/-- A program in a poll is in no final state. -/
theorem not_final_of_polling : ¬ Safety.Final h s := fun hfinal =>
  absurd (hfinal.1.symm.trans (hasReturned_of_polling hstage)) nofun

theorem move_of_polling : h.move s =
    hostStepFrom h (some (.rdSr .word))
      (fun cfg v => { stage := Stage.after cfg v (.polling f b), rest := h.rest }) s := by
  rw [HostProgram.move, hstage]
  rfl

theorem move_of_polling_unclocked (hc : s.clkEn = false) :
    h.move s = .fault (.unclockedAccess (encode s.cfg (.rdSr .word))) := by
  obtain ⟨k, hk⟩ := exec_eq_hostStep (i := .rdSr .word) rfl s
  have hfault := hk.trans (hostStep_unclocked hc)
  simp only [move_of_polling hstage, hostStepFrom, hfault]

/-- The read of a poll, clocked: the program stands at its poll again, or the operation has returned
where the flag holds; the block is as it was but for the value given out. -/
theorem move_of_polling_clocked (hsr : s.cfg.SrWF) (hw : s.cfg.WidthsWF) (hc : s.clkEn = true) :
    h.move s = .next (if f.holds s = b then { stage := .steps [], rest := h.rest } else h,
      s.withOutput (.readValue (busOfHalf s.cfg (srView s)))) := by
  have hafter : Stage.after s.cfg (busOfHalf s.cfg (srView s)) (.polling f b) =
      if f.holds s = b then .steps [] else .polling f b := by
    rw [Stage.after, pollEnds_srView hsr hw]
    simp only [beq_iff_eq]
  rw [move_of_polling hstage, hostStepFrom, execRdSr_word hc]
  simp only [State.withOutput_cfg, State.withOutput_output, Output.value, hafter]
  split_ifs
  · rfl
  · rw [← hstage]

/-- A program that polls for what does not hold can, clocked, move on, and every move of it leads to
the same place with the same registers. -/
theorem move_of_vain_poll (hsr : s.cfg.SrWF) (hw : s.cfg.WidthsWF) (hvain : f.holds s ≠ b) :
    (s.clkEn = true → ∃ t, h.move s = .next (h, t)) ∧
    ∀ g t, h.move s = .next (g, t) → g = h ∧ ∃ o, t = s.withOutput o := by
  cases hc : s.clkEn with
  | false =>
    rw [move_of_polling_unclocked hstage hc]
    exact ⟨by simp, by simp⟩
  | true =>
    rw [move_of_polling_clocked hstage hsr hw hc, if_neg hvain]
    refine ⟨fun _ => ⟨_, rfl⟩, fun g t hmove => ?_⟩
    cases hmove
    exact ⟨rfl, _, rfl⟩

end

end Sys2Proof.Machine

namespace Sys2Proof.Proofs

open Sys2Proof.Machine Sys2Proof.Safety

/-- Settles O52: the program's move is the read of `move_of_polling_clocked`, and a step of another
agent leaves the program where it stands. -/
theorem pollEndsWhereTheFlagHolds : Obligations.PollEndsWhereTheFlagHolds := by
  unfold Obligations.PollEndsWhereTheFlagHolds
  refine ⟨fun f b s h hsr hw hstage => ?_, fun f b z s t hsr hw hread => ?_⟩
  · have hstage : h.stage = .polling f b := hstage
    refine ⟨fun hc => ⟨_, _, move_of_polling_clocked hstage hsr hw hc, rfl, ?_, fun hf => ?_,
      fun hf => ?_⟩, fun hc => ⟨_, move_of_polling_unclocked hstage hc⟩, fun i t hi hexec => ?_,
      fun q hq => ?_⟩
    · split_ifs <;> rfl
    · rw [if_pos hf]; rfl
    · rw [if_neg hf]
    · cases hagent : i.agent with
      | host => exact absurd hagent hi
      | seq => exact .seq hagent hexec
      | env => exact .env hagent trivial hexec
    · obtain hmove | ⟨i, -, hplace, -⟩ := hq.place
      · cases hc : s.clkEn with
        | false => rw [move_of_polling_unclocked hstage hc] at hmove; cases hmove
        | true =>
          rw [move_of_polling_clocked hstage hsr hw hc] at hmove
          cases hmove
          by_cases hf : f.holds s = b
          · exact .inr ⟨hf, execRdSr_word hc, by rw [if_pos hf]; rfl, by rw [if_pos hf]⟩
          · exact .inl (if_neg hf)
      · exact .inl hplace
  · obtain ⟨-, -, rfl⟩ := execRdSr_next hread
    refine ⟨rfl, ?_⟩
    rw [State.withOutput_output, Output.value, pollEnds_srView hsr hw, beq_iff_eq]

/-- Settles O58: HW_LOAD needs ACTIVE and the other SEQ steps a frame; the poll reads TXE = 0. -/
theorem stagedByteWaitsWithoutActive : Obligations.StagedByteWaitsWithoutActive := by
  unfold Obligations.StagedByteWaitsWithoutActive
  intro s h hsr hw hactive hphase hfull hstage
  have hvain : StatusFlag.txe.holds s ≠ true := by simp [StatusFlag.holds, txe, hfull]
  obtain ⟨hclocked, hmoves⟩ := move_of_vain_poll hstage hsr hw hvain
  refine ⟨fun i t hi hexec => ?_, hclocked, fun g t hmove => ?_, not_final_of_polling hstage⟩
  · obtain ⟨-, hact, -⟩ := takes_seq_of_idle hphase hi (takes_of_next hexec)
    exact absurd (hactive.symm.trans hact) nofun
  · obtain ⟨rfl, o, rfl⟩ := hmoves g t hmove
    exact ⟨rfl, hactive, hphase, hfull, Bool.eq_false_iff.2 hvain, not_final_of_polling hstage⟩

/-- Settles O59: a quiet block has no SEQ step, and the poll reads RXNE = 0. -/
theorem unclockedByteNeverArrives : Obligations.UnclockedByteNeverArrives := by
  unfold Obligations.UnclockedByteNeverArrives
  intro s h hsr hw hquiet hempty hstage
  have hvain : StatusFlag.rxne.holds s ≠ true := by simp [StatusFlag.holds, rxne, hempty]
  obtain ⟨hclocked, hmoves⟩ := move_of_vain_poll hstage hsr hw hvain
  refine ⟨fun i t hi hexec => no_seq_of_quiet hquiet hi (takes_of_next hexec), hclocked,
    fun g t hmove => ?_, not_final_of_polling hstage⟩
  obtain ⟨rfl, o, rfl⟩ := hmoves g t hmove
  exact ⟨rfl, hquiet, hempty, hempty, not_final_of_polling hstage⟩

end Sys2Proof.Proofs

/-! ## A call, move by move

What the HOST's own move does at each position, and what the moves of the other agents do to the
elements that the table of driver states speaks of (spec/43_driver_sequences.md rules R202 to
R205). -/

namespace Sys2Proof.Machine

/-- The HOST's move at a position: the steps of 43_driver_sequences.md R202, each poll with the two
ways it can go. -/
def HostMoves (c : Call) (s : State) (q : Position) (t : State) : Position → Prop
  | .pollTxe => (∃ o, t = s.withOutput o) ∧ q = if txe s then .writeDr else .pollTxe
  | .writeDr => (∃ o, t = (s.stage c.byte).withOutput o) ∧ q = .pollLoaded
  | .pollLoaded => (∃ o, t = s.withOutput o) ∧ q = if txe s then .pollBsy else .pollLoaded
  | .pollBsy => (∃ o, t = s.withOutput o) ∧
      q = if bsy s = false then (if c.reads then .pollRxne else .returned none) else .pollBsy
  | .pollRxne => (∃ o, t = s.withOutput o) ∧ q = if rxne s then .readDr else .pollRxne
  | .readDr => (∃ o, t = (s.after (.rdDr .word)).withOutput o) ∧
      ∃ b, q = .returned (some b) ∧ (s.rxbFull = true → b = s.rxb)
  | .returned r => t = s ∧ q = .returned r

/-- The word that a read of DR gives out holds the byte read. -/
theorem setWidth_busOfByte {c : Config} (hw : c.WidthsWF) (b : Byte) :
    (busOfByte c b).setWidth 8 = b := by
  rw [busOfByte_eq c hw, BitVec.setWidth_setWidth_of_le _ (by decide), BitVec.setWidth_eq]

theorem drOperand_byte {c : Config} (hw : c.WidthsWF) (b : Byte) :
    drOperand c (b.setWidth 32) = b := by
  rw [drOperand_eq c hw, BitVec.setWidth_setWidth_of_le _ (by decide), BitVec.setWidth_eq]

theorem hostMove_next_iff {c : Call} {p q : Position} {s t : State} :
    hostMove c p s = .next (q, t) ↔ (hostInstr c p = none ∧ q = p ∧ t = s) ∨
      ∃ i, hostInstr c p = some i ∧ exec i s = .next t ∧
        q = positionAfter t.cfg c t.output.value p := by
  unfold hostMove
  rw [hostStepFrom_next]
  simp only [Prod.mk.injEq]
  constructor
  · rintro (h | ⟨i, u, hi, hexec, rfl, rfl⟩)
    · exact .inl h
    · exact .inr ⟨i, hi, hexec, rfl⟩
  · rintro (h | ⟨i, hi, hexec, rfl⟩)
    · exact .inl h
    · exact .inr ⟨i, t, hi, hexec, rfl, rfl⟩

theorem hostMoves_of_hostMove {c : Call} {p q : Position} {s t : State} (hsr : s.cfg.SrWF)
    (hw : s.cfg.WidthsWF) (h : hostMove c p s = .next (q, t)) : HostMoves c s q t p := by
  obtain ⟨hnone, rfl, rfl⟩ | ⟨i, hi, hexec, rfl⟩ := hostMove_next_iff.1 h
  · cases q with
    | returned r => exact ⟨rfl, rfl⟩
    | _ => cases hnone
  · obtain ⟨-, rfl⟩ := exec_next_iff.1 hexec
    have hpoll := pollEnds_srView hsr hw
    cases p with
    | writeDr => cases hi; exact ⟨⟨_, by rw [State.after, drOperand_byte hw]⟩, rfl⟩
    | readDr =>
      cases hi
      refine ⟨⟨_, rfl⟩, _, rfl, fun hfull => ?_⟩
      simp [State.gives, Output.value, hfull, setWidth_busOfByte hw]
    | returned r => cases hi
    | pollTxe | pollLoaded | pollBsy | pollRxne =>
      cases hi
      refine ⟨⟨_, rfl⟩, ?_⟩
      simp [State.after, State.gives, positionAfter, Output.value, hpoll, StatusFlag.holds]

/-- A SEQ step starts a frame of a staged byte, or goes on in a frame, or ends it. -/
theorem seq_moves {i : Instr} {s t : State} (hi : i.agent = .seq) (h : exec i s = .next t) :
    (s.phase = .idle ∧ s.txbFull = true ∧ t.phase = .shift ∧ t.txbFull = false) ∨
    (s.phase = .shift ∧ t.phase = .shift ∧ t.txbFull = s.txbFull) ∨
    (s.phase = .shift ∧ t.phase = (if s.txbFull then .shift else .idle) ∧ t.txbFull = false ∧
      t.rxbFull = true) := by
  obtain ⟨htakes, rfl⟩ := exec_next_iff.1 h
  obtain ⟨rfl, -, hphase, hfull⟩ | ⟨m, rfl, hphase, -⟩ | ⟨rfl, hphase, -⟩ | ⟨r, rfl, hphase, -⟩ :=
    takes_seq_cases hi htakes
  · exact .inl ⟨hphase, hfull, rfl, rfl⟩
  · exact .inr (.inl ⟨hphase, hphase, rfl⟩)
  · exact .inr (.inr ⟨hphase, finishFrame_phase s, finishFrame_txbFull s, finishFrame_rxbFull s⟩)
  · exact .inr (.inr ⟨hphase, finishFrame_phase _, finishFrame_txbFull _, finishFrame_rxbFull _⟩)

/-- Within a frame and with nothing staged, the frame goes on, or ends in a quiet state with
RXNE = 1. -/
theorem seq_moves_in_frame {i : Instr} {s t : State} (hi : i.agent = .seq) (h : exec i s = .next t)
    (hempty : s.txbFull = false) (hphase : s.phase = .shift) :
    (t.txbFull = false ∧ t.phase = .shift) ∨ (quiet t = true ∧ t.rxbFull = true) := by
  obtain ⟨hidle, -⟩ | ⟨-, hshift, hsame⟩ | ⟨-, hend, hclear, hrxb⟩ := seq_moves hi h
  · exact absurd (hphase.symm.trans hidle) nofun
  · exact .inl ⟨hsame.trans hempty, hshift⟩
  · rw [hempty] at hend
    exact .inr ⟨quiet_iff.2 ⟨hclear, hend⟩, hrxb⟩

/-- The elements that the driver's table speaks of are the same in both states. -/
def SameForDriver (s t : State) : Prop :=
  t.txb = s.txb ∧ t.txbFull = s.txbFull ∧ t.rxb = s.rxb ∧ t.rxbFull = s.rxbFull ∧ t.shr = s.shr ∧
  t.phase = s.phase ∧ t.bitcnt = s.bitcnt

/-- ENV resets the block to a quiet state, or changes none of these elements. -/
theorem env_moves {i : Instr} {s t : State} (hi : i.agent = .env) (h : exec i s = .next t) :
    (i = .envReset ∧ quiet t = true) ∨ SameForDriver s t := by
  obtain ⟨o, rfl⟩ := exec_next h
  cases i with
  | envReset => exact .inl ⟨rfl, rfl⟩
  | envClkOn | envPins => exact .inr ⟨rfl, rfl, rfl, rfl, rfl, rfl, rfl⟩
  | _ => cases hi

/-- Every step but WR_CR and a reset keeps an ACTIVE block ACTIVE, with CR and the parameters. -/
theorem exec_keeps_active {i : Instr} {s t : State} (hreset : i ≠ .envReset)
    (hcr : ∀ z v, i ≠ .wrCr z v) (h : exec i s = .next t) (hactive : active s = true) :
    active t = true ∧ t.cfg = s.cfg ∧ t.cr = s.cr := by
  obtain ⟨o, rfl⟩ := exec_next h
  have hcfg := s.after_cfg i
  have hsame := after_cr (s := s) hreset hcr
  refine ⟨?_, hcfg, hsame⟩
  obtain ⟨hclk, hfields⟩ := active_iff.1 hactive
  have hclk' : (s.after i).clkEn = true := by
    obtain e | ⟨-, e⟩ | ⟨rfl, -⟩ := after_clkEn_cases s i
    · exact e.trans hclk
    · exact e
    · exact absurd rfl hreset
  refine active_iff.2 ⟨hclk', ?_⟩
  simpa only [State.withOutput_cfg, State.withOutput_cr, hcfg, hsame] using hfields

/-- A call writes DR only, of the registers that can be written. -/
theorem hostInstr_agent {c : Call} {p : Position} {i : Instr} (h : hostInstr c p = some i) :
    i.agent = .host ∧ ∀ z v, i ≠ .wrCr z v := by
  cases p <;> cases h <;> exact ⟨rfl, nofun⟩

end Sys2Proof.Machine

namespace Sys2Proof.Safety

open Sys2Proof.Machine

/-- A move without a reset keeps an ACTIVE block ACTIVE, with CR and the parameters. -/
theorem move_keeps_active {c : Call} {p q : Position} {s t : State} (hactive : active s = true)
    (h : MoveWithoutReset c (p, s) (q, t)) : active t = true ∧ t.cfg = s.cfg ∧ t.cr = s.cr := by
  obtain hmove | ⟨i, hi, -, hexec⟩ := h.place
  · obtain ⟨-, -, rfl⟩ | ⟨i, hi, hexec, -⟩ := hostMove_next_iff.1 hmove
    · exact ⟨hactive, rfl, rfl⟩
    · obtain ⟨hagent, hcr⟩ := hostInstr_agent hi
      exact exec_keeps_active (by rintro rfl; cases hagent) hcr hexec hactive
  · refine exec_keeps_active ?_ ?_ hexec hactive
    · rintro rfl
      obtain hseq | ⟨-, hreset⟩ := hi
      · cases hseq
      · exact hreset rfl
    · rintro z v rfl
      obtain hseq | ⟨henv, -⟩ := hi
      · cases hseq
      · cases henv

/-! ### Beside the position -/

theorem Beside.hostMove {c : Call} {p q : Position} {s t : State} (h : Beside c p s)
    (hmove : HostMoves c s q t p) : Beside c q t := by
  cases p with
  | pollTxe =>
    obtain ⟨⟨o, rfl⟩, rfl⟩ := hmove
    split_ifs <;> exact h
  | writeDr =>
    obtain ⟨⟨o, rfl⟩, rfl⟩ := hmove
    exact .inl ⟨rfl, (quiet_iff.1 h).2, rfl⟩
  | pollLoaded =>
    obtain ⟨⟨o, rfl⟩, rfl⟩ := hmove
    split_ifs with hflag
    · obtain ⟨hfull, -⟩ | h := h
      · simp [txe, hfull] at hflag
      · exact h
    · exact h
  | pollBsy =>
    obtain ⟨⟨o, rfl⟩, rfl⟩ := hmove
    split_ifs with hflag hreads
    · obtain ⟨-, hphase⟩ | h := h
      · simp [bsy, hphase] at hflag
      · exact ⟨hreads, h⟩
    · obtain ⟨-, hphase⟩ | h := h
      · simp [bsy, hphase] at hflag
      · exact ⟨Bool.eq_false_iff.2 hreads, h⟩
    · exact h
  | pollRxne =>
    obtain ⟨⟨o, rfl⟩, rfl⟩ := hmove
    split_ifs <;> exact h
  | readDr =>
    obtain ⟨⟨o, rfl⟩, b, rfl, hb⟩ := hmove
    obtain ⟨hreads, hquiet, hfull⟩ := h
    exact ⟨hreads, hquiet, rfl, hb hfull⟩
  | returned r =>
    obtain ⟨rfl, rfl⟩ := hmove
    exact h

/-- What can stand beside a position where the block is not quiet. -/
theorem Beside.of_not_quiet {c : Call} {p : Position} {s : State} (h : Beside c p s)
    (hquiet : quiet s ≠ true) : (p = .pollLoaded ∧ s.txbFull = true ∧ s.phase = .idle) ∨
      ((p = .pollLoaded ∨ p = .pollBsy) ∧ s.txbFull = false ∧ s.phase = .shift) := by
  cases p with
  | pollLoaded =>
    obtain ⟨hfull, hphase, -⟩ | ⟨hempty, hphase⟩ | ⟨h, -⟩ := h
    · exact .inl ⟨rfl, hfull, hphase⟩
    · exact .inr ⟨.inl rfl, hempty, hphase⟩
    · exact absurd h hquiet
  | pollBsy =>
    obtain ⟨hempty, hphase⟩ | ⟨h, -⟩ := h
    · exact .inr ⟨.inr rfl, hempty, hphase⟩
    · exact absurd h hquiet
  | pollTxe | writeDr => exact absurd h hquiet
  | pollRxne | readDr => exact absurd h.2.1 hquiet
  | returned r => cases r <;> exact absurd h.2.1 hquiet

theorem Beside.seq {c : Call} {p : Position} {s t : State} {i : Instr} (h : Beside c p s)
    (hi : i.agent = .seq) (hexec : exec i s = .next t) : Beside c p t := by
  have hquiet : quiet s ≠ true := fun hq => no_seq_of_quiet hq hi (takes_of_next hexec)
  obtain ⟨rfl, -, hphase⟩ | ⟨hp, hempty, hphase⟩ := h.of_not_quiet hquiet
  · obtain ⟨-, -, hshift, hempty⟩ | ⟨hshift, -⟩ | ⟨hshift, -⟩ := seq_moves hi hexec
    · exact .inr (.inl ⟨hempty, hshift⟩)
    all_goals exact absurd (hphase.symm.trans hshift) nofun
  · have hframe := seq_moves_in_frame hi hexec hempty hphase
    rcases hp with rfl | rfl
    · exact .inr hframe
    · exact hframe

theorem Beside.congr {c : Call} {p : Position} {s t : State} (h : Beside c p s)
    (hsame : SameForDriver s t) : Beside c p t := by
  obtain ⟨htxb, htxbFull, hrxb, hrxbFull, -, hphase, -⟩ := hsame
  have hquiet : quiet t = quiet s := by rw [quiet, quiet, htxbFull, hphase]
  unfold Beside at h ⊢
  rw [htxb, htxbFull, hrxb, hrxbFull, hphase, hquiet]
  exact h

/-- Every move without a reset keeps a state beside the position (43_driver_sequences.md R203). -/
theorem Beside.move {c : Call} {p q : Position} {s t : State} (hsr : s.cfg.SrWF)
    (hw : s.cfg.WidthsWF) (h : Beside c p s) (hmove : MoveWithoutReset c (p, s) (q, t)) :
    Beside c q t := by
  cases hmove with
  | host hhost => exact h.hostMove (hostMoves_of_hostMove hsr hw hhost)
  | seq hi hexec => exact h.seq hi hexec
  | env hi hreset hexec =>
    obtain ⟨e, -⟩ | hsame := env_moves hi hexec
    · exact absurd e hreset
    · exact h.congr hsame

theorem InCall.move {c : Call} {p q : Position} {s t : State} (hsr : s.cfg.SrWF)
    (hw : s.cfg.WidthsWF) (h : InCall c p s) (hmove : MoveWithoutReset c (p, s) (q, t)) :
    InCall c q t ∧ t.cfg = s.cfg ∧ t.cr = s.cr := by
  obtain ⟨hactive, hsame⟩ := move_keeps_active h.1 hmove
  exact ⟨⟨hactive, h.2.move hsr hw hmove⟩, hsame⟩

/-- In a call of an ACTIVE block the HOST's next step, if it has one, is taken. -/
theorem InCall.takes {c : Call} {p : Position} {s : State} (h : InCall c p s) {i : Instr}
    (hi : hostInstr c p = some i) : s.Takes i := by
  obtain ⟨hactive, hbeside⟩ := h
  have hclk : s.clkEn = true := (active_iff.1 hactive).1
  cases p with
  | writeDr => cases hi; exact ⟨hclk, rfl, (quiet_iff.1 hbeside).1⟩
  | pollTxe | pollLoaded | pollBsy | pollRxne | readDr => cases hi; exact ⟨hclk, rfl⟩
  | returned r => cases hi

/-! ### Whatever ENV does -/

/-- What holds beside each position whatever ENV does, reset included: a call passes step 3 only
with nothing staged, and step 4 only quiet. -/
def EndsQuiet (p : Position) (s : State) : Prop :=
  match p with
  | .pollLoaded => s.txbFull = true → s.phase = .idle
  | .pollBsy => s.txbFull = false
  | _ => quiet s = true

theorem EndsQuiet.of_quiet {p : Position} {s : State} (h : quiet s = true) : EndsQuiet p s := by
  obtain ⟨hempty, hphase⟩ := quiet_iff.1 h
  cases p with
  | pollLoaded => exact fun _ => hphase
  | pollBsy => exact hempty
  | _ => exact h

theorem EndsQuiet.congr {p : Position} {s t : State} (h : EndsQuiet p s)
    (hsame : SameForDriver s t) : EndsQuiet p t := by
  obtain ⟨-, htxbFull, -, -, -, hphase, -⟩ := hsame
  have hquiet : quiet t = quiet s := by rw [quiet, quiet, htxbFull, hphase]
  unfold EndsQuiet at h ⊢
  rw [htxbFull, hphase, hquiet]
  exact h

theorem EndsQuiet.hostMove {c : Call} {p q : Position} {s t : State} (h : EndsQuiet p s)
    (hmove : HostMoves c s q t p) : EndsQuiet q t := by
  cases p with
  | pollTxe | pollRxne =>
    obtain ⟨⟨o, rfl⟩, rfl⟩ := hmove
    split_ifs <;> exact h
  | writeDr =>
    obtain ⟨⟨o, rfl⟩, rfl⟩ := hmove
    exact fun _ => (quiet_iff.1 h).2
  | pollLoaded =>
    obtain ⟨⟨o, rfl⟩, rfl⟩ := hmove
    split_ifs with hflag
    · simpa [EndsQuiet, txe] using hflag
    · exact h
  | pollBsy =>
    obtain ⟨⟨o, rfl⟩, rfl⟩ := hmove
    have hquiet (hflag : bsy s = false) : quiet s = true := by
      rw [bsy, beq_eq_false_iff_ne] at hflag
      cases hphase : s.phase with
      | shift => exact absurd hphase hflag
      | idle => exact quiet_iff.2 ⟨h, hphase⟩
    split_ifs with hflag
    · exact hquiet hflag
    · exact hquiet hflag
    · exact h
  | readDr =>
    obtain ⟨⟨o, rfl⟩, b, rfl, -⟩ := hmove
    exact h
  | returned r =>
    obtain ⟨rfl, rfl⟩ := hmove
    exact h

theorem EndsQuiet.seq {p : Position} {s t : State} {i : Instr} (h : EndsQuiet p s)
    (hi : i.agent = .seq) (hexec : exec i s = .next t) : EndsQuiet p t := by
  have hno : quiet s ≠ true := fun hq => no_seq_of_quiet hq hi (takes_of_next hexec)
  cases p with
  | pollLoaded =>
    obtain ⟨-, -, -, hclear⟩ | ⟨hshift, -, hsame⟩ | ⟨-, -, hclear, -⟩ := seq_moves hi hexec
    · exact fun hfull => absurd (hclear.symm.trans hfull) nofun
    · exact fun hfull => absurd ((h (hsame.symm.trans hfull)).symm.trans hshift) nofun
    · exact fun hfull => absurd (hclear.symm.trans hfull) nofun
  | pollBsy =>
    obtain ⟨-, -, -, hclear⟩ | ⟨-, -, hsame⟩ | ⟨-, -, hclear, -⟩ := seq_moves hi hexec
    · exact hclear
    · exact hsame.trans h
    · exact hclear
  | _ => exact absurd h hno

theorem EndsQuiet.env {p : Position} {s t : State} {i : Instr} (h : EndsQuiet p s)
    (hi : i.agent = .env) (hexec : exec i s = .next t) : EndsQuiet p t := by
  obtain ⟨-, hquiet⟩ | hsame := env_moves hi hexec
  · exact .of_quiet hquiet
  · exact h.congr hsame

theorem EndsQuiet.move {c : Call} {p q : Position} {s t : State} (hsr : s.cfg.SrWF)
    (hw : s.cfg.WidthsWF) (h : EndsQuiet p s) (hmove : Move c (p, s) (q, t)) : EndsQuiet q t := by
  cases hmove with
  | host hhost => exact h.hostMove (hostMoves_of_hostMove hsr hw hhost)
  | seq hi hexec => exact h.seq hi hexec
  | env hi _ hexec => exact h.env hi hexec

/-- No move of a call changes the parameters. -/
theorem move_keeps_cfg {may : Instr → Prop} {c : Call} {p q : Position} {s t : State}
    (h : Interleaved may (hostMove c) (p, s) (q, t)) : t.cfg = s.cfg := by
  have hexec {i : Instr} (he : exec i s = .next t) : t.cfg = s.cfg := by
    obtain ⟨o, rfl⟩ := exec_next he
    exact s.after_cfg i
  obtain hmove | ⟨i, -, -, he⟩ := h.place
  · obtain ⟨-, -, rfl⟩ | ⟨i, -, he, -⟩ := hostMove_next_iff.1 hmove
    · rfl
    · exact hexec he
  · exact hexec he

/-- What every move keeps holds wherever the moves lead. -/
theorem reaches_keeps {α : Type} {r : α → α → Prop} {P : α → Prop}
    (hstep : ∀ a b, P a → r a b → P b) {a b : α} (h : Relation.ReflTransGen r a b) (ha : P a) :
    P b := by
  induction h with
  | refl => exact ha
  | tail _ hmove ih => exact hstep _ _ ih hmove

end Sys2Proof.Safety

namespace Sys2Proof.Proofs

open Sys2Proof.Machine Sys2Proof.Safety

/-- Settles O53, agent by agent (`InCall.move`). -/
theorem callMovesKeepTheirStates : Obligations.CallMovesKeepTheirStates := by
  unfold Obligations.CallMovesKeepTheirStates
  exact fun c p q s t hsr hw h hmove => h.move hsr hw hmove

/-- Settles O54: the HOST's step is taken (`InCall.takes`), or the call has returned. -/
theorem callsNeverStop : Obligations.CallsNeverStop := by
  unfold Obligations.CallsNeverStop
  intro c p s h
  cases hi : hostInstr c p with
  | none => exact ⟨(p, s), hostMove_next_iff.2 (.inl ⟨hi, rfl, rfl⟩)⟩
  | some i =>
    exact ⟨_, hostMove_next_iff.2 (.inr ⟨i, hi, exec_of_takes (h.takes hi), rfl⟩)⟩

/-- Settles O55: by induction on the moves, `EndsQuiet` whatever ENV does, and the invariant of O53
without a reset. -/
theorem returnedCallsLeaveTheBusQuiet : Obligations.ReturnedCallsLeaveTheBusQuiet := by
  unfold Obligations.ReturnedCallsLeaveTheBusQuiet
  intro c s t r hsr hw hquiet
  refine ⟨fun hrun => ?_, fun hactive hrun => ?_⟩
  · have hstart : EndsQuiet .pollTxe s ∧ s.cfg = s.cfg := ⟨hquiet, rfl⟩
    have hend := reaches_keeps (P := fun x => EndsQuiet x.1 x.2 ∧ x.2.cfg = s.cfg)
      (fun x y ⟨hx, hcfg⟩ hmove =>
        ⟨hx.move (hcfg ▸ hsr) (hcfg ▸ hw) hmove, (move_keeps_cfg hmove).trans hcfg⟩) hrun hstart
    exact hend.1
  · have hstart : InCall c .pollTxe s ∧ s.cfg = s.cfg ∧ s.cr = s.cr := ⟨⟨hactive, hquiet⟩, rfl, rfl⟩
    have hend := reaches_keeps
      (P := fun x => InCall c x.1 x.2 ∧ x.2.cfg = s.cfg ∧ x.2.cr = s.cr)
      (fun x y ⟨hx, hcfg, hcr⟩ hmove => by
        obtain ⟨hy, hcfg', hcr'⟩ := hx.move (hcfg ▸ hsr) (hcfg ▸ hw) hmove
        exact ⟨hy, hcfg'.trans hcfg, hcr'.trans hcr⟩) hrun hstart
    obtain ⟨⟨-, hbeside⟩, -, hcr⟩ := hend
    refine ⟨hcr, ?_⟩
    cases r with
    | none =>
      obtain ⟨hreads, -, hrxb⟩ := hbeside
      exact ⟨fun _ => ⟨rfl, hrxb⟩, fun h => absurd (hreads.symm.trans h) nofun⟩
    | some b =>
      obtain ⟨hreads, -, hrxb, hb⟩ := hbeside
      exact ⟨fun h => absurd (hreads.symm.trans h) nofun, fun _ => ⟨congrArg some hb, hrxb⟩⟩

end Sys2Proof.Proofs

/-! ## Programs of calls

A program of calls is quiet whenever its operation has returned, and no move records a mark
(spec/00_scope.md rule R14). -/

namespace Sys2Proof.Safety

open Sys2Proof.Machine

/-- The program has calls only, and the state is one that can stand beside its position whatever ENV
does; before the first call that is the position at which a call begins. -/
def ProgramEndsQuiet (h : HostProgram) (s : State) : Prop :=
  (∃ l : List Call, h.rest = l.map .call) ∧
  ∃ p, EndsQuiet p s ∧ ((h.stage = .steps [] ∧ p = .pollTxe) ∨ ∃ c, h.stage = .inCall c p)

/-- Where the program's operation has returned the state is quiet. -/
theorem ProgramEndsQuiet.quiet {h : HostProgram} {s : State} (hq : ProgramEndsQuiet h s)
    (hreturned : h.stage.hasReturned = true) : quiet s = true := by
  obtain ⟨-, p, hp, ⟨-, rfl⟩ | ⟨c, hstage⟩⟩ := hq
  · exact hp
  · rw [hstage] at hreturned
    cases p with
    | returned r => exact hp
    | _ => cases hreturned

theorem ProgramEndsQuiet.hostMove {h g : HostProgram} {s t : State} (hsr : s.cfg.SrWF)
    (hw : s.cfg.WidthsWF) (hq : ProgramEndsQuiet h s) (hmove : h.move s = .next (g, t)) :
    ProgramEndsQuiet g t := by
  obtain ⟨hreturned, rfl, ⟨-, rfl⟩ | ⟨o, os, hrest, rfl⟩⟩ | ⟨-, i, hi, hexec, rfl⟩ :=
    HostProgram.move_next.1 hmove
  · exact hq
  · have hquiet := hq.quiet hreturned
    obtain ⟨⟨l, hl⟩, -⟩ := hq
    obtain ⟨c, l, -, rfl, rfl⟩ := List.map_eq_cons_iff.1 (hl.symm.trans hrest)
    exact ⟨⟨l, rfl⟩, .pollTxe, hquiet, .inr ⟨c, rfl⟩⟩
  · obtain ⟨hl, p, hp, ⟨hstage, -⟩ | ⟨c, hstage⟩⟩ := hq
    · rw [hstage] at hi; cases hi
    · rw [hstage] at hi
      have hcall : Machine.hostMove c p s = .next (positionAfter t.cfg c t.output.value p, t) :=
        hostMove_next_iff.2 (.inr ⟨i, hi, hexec, rfl⟩)
      exact ⟨hl, _, hp.hostMove (hostMoves_of_hostMove hsr hw hcall),
        .inr ⟨c, by rw [hstage, Stage.after]⟩⟩

theorem ProgramEndsQuiet.move {h g : HostProgram} {s t : State} (hsr : s.cfg.SrWF)
    (hw : s.cfg.WidthsWF) (hq : ProgramEndsQuiet h s) (hmove : ProgramMove (h, s) (g, t)) :
    ProgramEndsQuiet g t := by
  cases hmove with
  | host hhost => exact hq.hostMove hsr hw hhost
  | seq hi hexec =>
    obtain ⟨hl, p, hp, hstage⟩ := hq
    exact ⟨hl, p, hp.seq hi hexec, hstage⟩
  | env hi _ hexec =>
    obtain ⟨hl, p, hp, hstage⟩ := hq
    exact ⟨hl, p, hp.env hi hexec, hstage⟩

/-- The elements that no step that is taken writes. -/
def SameBookkeeping (s t : State) : Prop :=
  t.cfg = s.cfg ∧ t.inputs = s.inputs ∧ t.faults = s.faults ∧ t.refused = s.refused

theorem SameBookkeeping.trans {s t u : State} (h : SameBookkeeping s t) (h' : SameBookkeeping t u) :
    SameBookkeeping s u := by
  obtain ⟨hcfg, hinputs, hfaults, hrefused⟩ := h
  obtain ⟨hcfg', hinputs', hfaults', hrefused'⟩ := h'
  exact ⟨hcfg'.trans hcfg, hinputs'.trans hinputs, hfaults'.trans hfaults, hrefused'.trans hrefused⟩

theorem sameBookkeeping_of_exec {i : Instr} {s t : State} (h : exec i s = .next t) :
    SameBookkeeping s t := by
  obtain ⟨o, rfl⟩ := exec_next h
  exact ⟨s.after_cfg i, s.after_inputs i, s.after_faults i, s.after_refused i⟩

theorem sameBookkeeping_of_programMove {h g : HostProgram} {s t : State}
    (hmove : ProgramMove (h, s) (g, t)) : SameBookkeeping s t := by
  obtain hhost | ⟨i, -, -, hexec⟩ := hmove.place
  · obtain ⟨-, rfl, -⟩ | ⟨-, i, -, hexec, -⟩ := HostProgram.move_next.1 hhost
    · exact ⟨rfl, rfl, rfl, rfl⟩
    · exact sameBookkeeping_of_exec hexec
  · exact sameBookkeeping_of_exec hexec

/-! ### Progress -/

/-- How many SEQ steps an ACTIVE block can still take, at most, while nothing more is staged. -/
def stepsLeft (s : State) : Nat :=
  match s.phase with
  | .idle => if s.txbFull then 20 else 0
  | .shift => 9 - s.bitcnt.toNat + if s.txbFull then 10 else 0

theorem stepsLeft_of_idle {s : State} (h : s.phase = .idle) :
    stepsLeft s = if s.txbFull then 20 else 0 := by
  rw [stepsLeft, h]

theorem stepsLeft_of_shift {s : State} (h : s.phase = .shift) :
    stepsLeft s = 9 - s.bitcnt.toNat + if s.txbFull then 10 else 0 := by
  rw [stepsLeft, h]

/-- The end of a frame leaves a whole frame to go, of a staged byte, or nothing. -/
theorem stepsLeft_finishFrame (s : State) :
    stepsLeft (finishFrame s) = if s.txbFull then 9 else 0 := by
  rcases finishFrame_cases s with ⟨h, e⟩ | ⟨h, e⟩ <;> rw [e, h] <;> simp [stepsLeft, h]

/-- Every SEQ step uses one of the steps left. -/
theorem stepsLeft_lt_of_seq {i : Instr} {s t : State} (hi : i.agent = .seq)
    (h : exec i s = .next t) : stepsLeft t < stepsLeft s := by
  obtain ⟨htakes, rfl⟩ := exec_next_iff.1 h
  obtain ⟨rfl, -, hphase, hfull⟩ | ⟨m, rfl, hphase, hbits⟩ | ⟨rfl, hphase, hbits⟩ |
    ⟨r, rfl, hphase, hbits⟩ := takes_seq_cases hi htakes
  · have hstart : stepsLeft s.loadFrame = 9 := rfl
    rw [stepsLeft_of_idle hphase, hfull]
    exact hstart.trans_lt (by decide)
  · have hnext : stepsLeft (s.shiftBit m) =
        9 - (s.bitcnt + 1).toNat + if s.txbFull then 10 else 0 := stepsLeft_of_shift hphase
    have hsucc := bitcnt_succ hbits
    rw [stepsLeft_of_shift hphase]
    refine hnext.trans_lt ?_
    omega
  · rw [stepsLeft_of_shift hphase, hbits]
    refine (stepsLeft_finishFrame s).trans_lt ?_
    cases s.txbFull <;> decide
  · rw [stepsLeft_of_shift hphase, hbits]
    refine (stepsLeft_finishFrame (s.fillFrame r)).trans_lt ?_
    rw [State.fillFrame_txbFull]
    cases s.txbFull <;> decide

/-- An ACTIVE block that meets the invariants is quiet or has a SEQ step to take. -/
theorem seqEnabled_or_quiet {s : State} (hinv : Inv s) (hactive : active s = true) :
    SeqEnabled s ∨ quiet s = true := by
  have hclk : s.clkEn = true := (active_iff.1 hactive).1
  cases hphase : s.phase with
  | idle =>
    cases hfull : s.txbFull with
    | false => exact .inr (quiet_iff.2 ⟨hfull, hphase⟩)
    | true => exact .inl (.inl (loadEnabled_iff.2 ⟨hactive, hphase, hfull⟩))
  | shift =>
    obtain hlt | heq := Nat.lt_or_eq_of_le hinv.bitcnt_le
    · exact .inl (.inr (.inl (shiftEnabled_iff.2 ⟨hclk, hphase, hlt⟩)))
    · have hbits : s.bitcnt = 8 := BitVec.eq_of_toNat_eq heq
      exact .inl (.inr (.inr (completeEnabled_iff.2 ⟨hclk, hphase, hbits⟩)))

/-- A step of an ACTIVE block that is only polled. -/
def PollingStep (i : Instr) : Prop :=
  (∃ z, i = .rdSr z) ∨ i.agent = .seq ∨ i = .envClkOn ∨ i = .envPins

/-- Such a step keeps the invariants and ACTIVE, and leaves no more SEQ steps than there were. -/
theorem PollingStep.keeps {i : Instr} {s t : State} (hi : PollingStep i) (h : exec i s = .next t)
    (hinv : Inv s) (hactive : active s = true) :
    Inv t ∧ active t = true ∧ stepsLeft t ≤ stepsLeft s := by
  have hno : i ≠ .envReset ∧ ∀ z v, i ≠ .wrCr z v := by
    obtain ⟨z, rfl⟩ | hseq | rfl | rfl := hi
    · exact ⟨nofun, nofun⟩
    · constructor
      · rintro rfl; cases hseq
      · rintro z v rfl; cases hseq
    · exact ⟨nofun, nofun⟩
    · exact ⟨nofun, nofun⟩
  obtain ⟨hactive', -⟩ := exec_keeps_active hno.1 hno.2 h hactive
  have hinv' : Inv t := by
    obtain ⟨htakes, rfl⟩ := exec_next_iff.1 h
    exact (hinv.after htakes).congr rfl rfl rfl rfl rfl rfl
  refine ⟨hinv', hactive', ?_⟩
  obtain ⟨z, rfl⟩ | hseq | rfl | rfl := hi
  · obtain ⟨o, rfl⟩ := exec_next h; exact Nat.le_refl _
  · exact (stepsLeft_lt_of_seq hseq h).le
  · obtain ⟨o, rfl⟩ := exec_next h; exact Nat.le_refl _
  · obtain ⟨o, rfl⟩ := exec_next h; exact Nat.le_refl _

section
variable {a : Nat → Instr} {r : Nat → State} (hrun : IsRun a r) (hpolls : ∀ n, PollingStep (a n))
include hrun hpolls

theorem polling_run_keeps {n k : Nat} (hinv : Inv (r n)) (hactive : active (r n) = true) :
    Inv (r (n + k)) ∧ active (r (n + k)) = true ∧ stepsLeft (r (n + k)) ≤ stepsLeft (r n) := by
  induction k with
  | zero => exact ⟨hinv, hactive, Nat.le_refl _⟩
  | succ k ih =>
    obtain ⟨hinv', hactive', hle⟩ := ih
    obtain ⟨hinv'', hactive'', hle'⟩ := (hpolls (n + k)).keeps (hrun (n + k)) hinv' hactive'
    exact ⟨hinv'', hactive'', hle'.trans hle⟩

/-- By induction on the SEQ steps left: progress finds the next SEQ step, or a state without one. -/
theorem polling_ends (hprogress : Progress a r) (m n : Nat) (hinv : Inv (r n))
    (hactive : active (r n) = true) (hm : stepsLeft (r n) < m) : ∃ k, quiet (r k) = true := by
  induction m generalizing n with
  | zero => exact absurd hm (Nat.not_lt_zero _)
  | succ m ih =>
    obtain ⟨j, hj, hstep⟩ := hprogress n
    obtain ⟨k, rfl⟩ := Nat.exists_eq_add_of_le hj
    obtain ⟨hinv', hactive', hle⟩ := polling_run_keeps hrun hpolls (k := k) hinv hactive
    obtain hseq | hnone := hstep
    · obtain ⟨hinv'', hactive'', -⟩ := (hpolls (n + k)).keeps (hrun (n + k)) hinv' hactive'
      have hlt := stepsLeft_lt_of_seq hseq (hrun (n + k))
      exact ih (n + k + 1) hinv'' hactive'' (by omega)
    · exact ⟨n + k, (seqEnabled_or_quiet hinv' hactive').resolve_left hnone⟩

end

end Sys2Proof.Safety

namespace Sys2Proof.Proofs

open Sys2Proof.Machine Sys2Proof.Safety

/-- Settles O57: the number of SEQ steps left falls at each of them and never rises
(`polling_ends`). -/
theorem pollingEndsUnderProgress : Obligations.PollingEndsUnderProgress := by
  unfold Obligations.PollingEndsUnderProgress
  exact fun a r hrun hprogress hinv hactive hpolls =>
    polling_ends hrun hpolls hprogress _ 0 hinv hactive (Nat.lt_succ_self _)

/-- Settles O60: by induction on the moves, the state is quiet once the last call has returned, and
no move records a mark. -/
theorem programsOfCallsEndFinal : Obligations.ProgramsOfCallsEndFinal := by
  unfold Obligations.ProgramsOfCallsEndFinal
  intro l s t h hsr hw hquiet hinputs hfaults hrefused hrun
  have hstart : ProgramEndsQuiet (.ofOperations (l.map .call)) s ∧ SameBookkeeping s s :=
    ⟨⟨⟨l, rfl⟩, .pollTxe, hquiet, .inl ⟨rfl, rfl⟩⟩, rfl, rfl, rfl, rfl⟩
  have hend := reaches_keeps (P := fun x => ProgramEndsQuiet x.1 x.2 ∧ SameBookkeeping s x.2)
    (fun x y ⟨hx, hsame⟩ hmove =>
      ⟨hx.move (hsame.1 ▸ hsr) (hsame.1 ▸ hw) hmove,
        hsame.trans (sameBookkeeping_of_programMove hmove)⟩) hrun hstart
  obtain ⟨hends, -, hinputs', hfaults', hrefused'⟩ := hend
  refine ⟨fun hfinal => hfinal.1, fun hreturned => ?_⟩
  have hstage : h.stage.hasReturned = true := (Bool.and_eq_true_iff.1 hreturned).1
  exact ⟨hreturned, hinputs'.trans hinputs, hfaults'.trans hfaults, hrefused'.trans hrefused,
    hends.quiet hstage⟩

end Sys2Proof.Proofs

/-! ## The frame of a call

From the start of a call the SEQ steps taken are none, then those of one frame so far, then exactly
one frame, as the position and the block say (spec/43_driver_sequences.md rule R206,
spec/42_serializer.md rules R177, R184). -/

namespace Sys2Proof.Safety

open Sys2Proof.Machine

/-- The SEQ steps of a frame with k bits done, at bit level. -/
def frameSteps (b : Nat → Bool) (k : Nat) : List Instr :=
  .hwLoad :: (List.range k).map fun j => .hwShift (b j)

/-- What the peer was given, without the steps that give nothing. -/
def peerOutputs (l : List (Instr × Output)) : List Output :=
  (l.map Prod.snd).filter (· != .nothing)

/-- The bits of a byte that the peer has after k periods. -/
def peerBits (c : Config) (v : Byte) (k : Nat) : List Output :=
  (List.range k).map fun j => .peerBit (v.getLsbD (c.wireBit j))

section
variable (c : Call) (s0 : State) (l : List (Instr × Output)) (s : State)

/-- SEQ has taken no step since the state s0 in which the call began. -/
def Unsent : Prop := l = [] ∧ s.rxb = s0.rxb ∧ s.rxbFull = s0.rxbFull

/-- The byte of the call waits in TXB. -/
def Staged : Prop :=
  Unsent s0 l s ∧ s.txbFull = true ∧ s.phase = .idle ∧ s.txb = c.byte

/-- k bits of the frame of the call are done, and the peer's are those of b. -/
structure Sending (b : Nat → Bool) (k : Nat) : Prop where
  empty : s.txbFull = false
  shifting : s.phase = .shift
  bitcnt : s.bitcnt.toNat = k
  holds : HoldsMidFrame s0.cfg c.byte b k s.shr
  steps : l.map Prod.fst = frameSteps b k
  peer : s0.pinsRouted = true → peerOutputs l = peerBits s0.cfg c.byte k
  rxb : s.rxb = s0.rxb
  rxbFull : s.rxbFull = s0.rxbFull

/-- The frame of the call is over, and the peer returned the byte R in it. -/
structure Sent (R : Byte) : Prop where
  quiet : quiet s = true
  frame : IsFrameOf s0.cfg R (l.map Prod.fst)
  peer : s0.pinsRouted = true → PeerReceived s0.cfg c.byte (l.map Prod.snd)
  rxb : s.rxb = if s0.rxbFull = true ∧ s0.cfg.rxOverrun = .keepOld then s0.rxb else R

/-- How far the frame of a call can be at each position. -/
def FrameAt : Position → Prop
  | .pollTxe => quiet s = true ∧ Unsent s0 l s
  | .writeDr => quiet s = true ∧ Unsent s0 l s
  | .pollLoaded => Staged c s0 l s ∨ (∃ b k, Sending c s0 l s b k) ∨ ∃ R, Sent c s0 l s R
  | .pollBsy => (∃ b k, Sending c s0 l s b k) ∨ ∃ R, Sent c s0 l s R
  | _ => ∃ R, Sent c s0 l s R

end

section
variable {c : Call} {s0 s t : State} {l : List (Instr × Output)}

/-! ### Moves that are not SEQ's -/

theorem Sending.congr {b : Nat → Bool} {k : Nat} (h : Sending c s0 l s b k)
    (hsame : SameForDriver s t) : Sending c s0 l t b k := by
  obtain ⟨-, htxbFull, hrxb, hrxbFull, hshr, hphase, hbitcnt⟩ := hsame
  exact { h with
    empty := htxbFull.trans h.empty
    shifting := hphase.trans h.shifting
    bitcnt := hbitcnt ▸ h.bitcnt
    holds := hshr ▸ h.holds
    rxb := hrxb.trans h.rxb
    rxbFull := hrxbFull.trans h.rxbFull }

/-- Once the frame is over, only RXB and that the block is quiet matter. -/
theorem Sent.congr {R : Byte} (h : Sent c s0 l s R) (hquiet : Machine.quiet t = Machine.quiet s)
    (hrxb : t.rxb = s.rxb) : Sent c s0 l t R :=
  { h with quiet := hquiet.trans h.quiet, rxb := hrxb.trans h.rxb }

theorem quiet_congr (hsame : SameForDriver s t) : quiet t = quiet s := by
  obtain ⟨-, htxbFull, -, -, -, hphase, -⟩ := hsame
  rw [quiet, quiet, htxbFull, hphase]

theorem FrameAt.congr {p : Position} (h : FrameAt c s0 l s p) (hsame : SameForDriver s t) :
    FrameAt c s0 l t p := by
  have hquiet := quiet_congr hsame
  have ⟨htxb, htxbFull, hrxb, hrxbFull, _, hphase, _⟩ := hsame
  have hunsent : Unsent s0 l s → Unsent s0 l t :=
    fun ⟨hl, hr, hf⟩ => ⟨hl, hrxb.trans hr, hrxbFull.trans hf⟩
  have hsending : (∃ b k, Sending c s0 l s b k) → ∃ b k, Sending c s0 l t b k :=
    fun ⟨b, k, h⟩ => ⟨b, k, h.congr hsame⟩
  have hsent : (∃ R, Sent c s0 l s R) → ∃ R, Sent c s0 l t R :=
    fun ⟨R, h⟩ => ⟨R, h.congr hquiet hrxb⟩
  cases p with
  | pollTxe | writeDr => exact ⟨hquiet.trans h.1, hunsent h.2⟩
  | pollLoaded =>
    refine h.imp (fun ⟨hu, hf, hp, hv⟩ => ?_) (Or.imp hsending hsent)
    exact ⟨hunsent hu, htxbFull.trans hf, hphase.trans hp, htxb.trans hv⟩
  | pollBsy => exact h.imp hsending hsent
  | pollRxne | readDr | returned => exact hsent h

theorem sameForDriver_withOutput (s : State) (o : Output) : SameForDriver s (s.withOutput o) :=
  ⟨rfl, rfl, rfl, rfl, rfl, rfl, rfl⟩

theorem FrameAt.hostMove {p q : Position} (h : FrameAt c s0 l s p) (hmove : HostMoves c s q t p) :
    FrameAt c s0 l t q := by
  cases p with
  | pollTxe =>
    obtain ⟨⟨o, rfl⟩, rfl⟩ := hmove
    split_ifs <;> exact h.congr (sameForDriver_withOutput s o)
  | writeDr =>
    obtain ⟨⟨o, rfl⟩, rfl⟩ := hmove
    obtain ⟨hquiet, hunsent⟩ := h
    exact .inl ⟨hunsent, rfl, (quiet_iff.1 hquiet).2, rfl⟩
  | pollLoaded =>
    obtain ⟨⟨o, rfl⟩, rfl⟩ := hmove
    have h := h.congr (sameForDriver_withOutput s o)
    split_ifs with hflag
    · have hempty : s.txbFull = false := by simpa [txe] using hflag
      exact h.resolve_left fun ⟨_, hfull, _⟩ => absurd (hempty.symm.trans hfull) nofun
    · exact h
  | pollBsy =>
    obtain ⟨⟨o, rfl⟩, rfl⟩ := hmove
    have h := h.congr (sameForDriver_withOutput s o)
    have hsent (hflag : bsy s = false) : ∃ R, Sent c s0 l (s.withOutput o) R :=
      h.resolve_left fun ⟨_, _, hsending⟩ =>
        absurd (hsending.shifting) (by simpa [bsy] using hflag)
    split_ifs with hflag
    · exact hsent hflag
    · exact hsent hflag
    · exact h
  | pollRxne =>
    obtain ⟨⟨o, rfl⟩, rfl⟩ := hmove
    split_ifs <;> exact h.congr (sameForDriver_withOutput s o)
  | readDr =>
    obtain ⟨⟨o, rfl⟩, b, rfl, -⟩ := hmove
    obtain ⟨R, h⟩ := h
    exact ⟨R, h.congr rfl rfl⟩
  | returned r =>
    obtain ⟨rfl, rfl⟩ := hmove
    exact h

/-! ### SEQ's moves -/

theorem peerOutputs_append (l : List (Instr × Output)) (i : Instr) (o : Output) :
    peerOutputs (l ++ [(i, o)]) = peerOutputs l ++ [o].filter (· != .nothing) := by
  simp [peerOutputs]

theorem frameSteps_succ {b b' : Nat → Bool} {k : Nat} (h : ∀ j, j < k → b' j = b j) :
    frameSteps b' (k + 1) = frameSteps b k ++ [.hwShift (b' k)] := by
  have hmap : (List.range k).map (fun j => Instr.hwShift (b' j)) =
      (List.range k).map fun j => .hwShift (b j) :=
    List.map_congr_left fun j hj => by rw [h j (List.mem_range.1 hj)]
  simp [frameSteps, List.range_succ, hmap]

theorem Staged.seq {i : Instr} (h : Staged c s0 l s) (hi : i.agent = .seq)
    (hexec : exec i s = .next t) : Sending c s0 (l ++ [(i, t.output)]) t (fun _ => false) 0 := by
  obtain ⟨⟨rfl, hrxb, hrxbFull⟩, -, hphase, hbyte⟩ := h
  obtain ⟨htakes, rfl⟩ := exec_next_iff.1 hexec
  obtain ⟨rfl, -⟩ := takes_seq_of_idle hphase hi htakes
  exact {
    empty := rfl
    shifting := rfl
    bitcnt := rfl
    holds := by
      rw [State.withOutput_shr, State.after, State.loadFrame_shr, hbyte]
      exact HoldsMidFrame.start s0.cfg c.byte _
    steps := rfl
    peer := fun _ => rfl
    rxb := hrxb
    rxbFull := hrxbFull }

/-- A frame that ends with nothing staged leaves the block quiet. -/
theorem quiet_finishFrame (h : s.txbFull = false) : quiet (finishFrame s) = true :=
  quiet_iff.2 ⟨finishFrame_txbFull s, by rw [finishFrame_phase, h]; rfl⟩

variable {b : Nat → Bool} {k : Nat} (hcfg : s.cfg = s0.cfg)
include hcfg

/-- RXB after the frame: what SHR holds then, or an unread byte that KEEP_OLD keeps (42_serializer.md
R184). -/
theorem Sending.deliver_rxb (h : Sending c s0 l s b k) {u : State} (hrxb : u.rxb = s.rxb)
    (hfull : u.rxbFull = s.rxbFull) (hsame : u.cfg = s.cfg) : u.deliver.rxb =
      if s0.rxbFull = true ∧ s0.cfg.rxOverrun = .keepOld then s0.rxb else u.shr := by
  rw [deliver_rxb_eq, hrxb, hfull, hsame, h.rxb, h.rxbFull, hcfg]

/-- HW_COMPLETE ends the frame bit by bit: the peer's byte is what SHR holds. -/
theorem Sending.complete (h : Sending c s0 l s b k) (hexec : exec .hwComplete s = .next t) :
    Sent c s0 (l ++ [(.hwComplete, t.output)]) t s.shr := by
  obtain ⟨htakes, rfl⟩ := exec_next_iff.1 hexec
  obtain ⟨-, -, height⟩ := completeEnabled_iff.1 htakes
  obtain rfl : 8 = k := by rw [← h.bitcnt, height]; rfl
  exact {
    quiet := quiet_finishFrame h.empty
    frame := by
      refine .inr ?_
      have hbits : (List.range 8).map (fun j => Instr.hwShift (b j)) =
          (List.range 8).map fun j => .hwShift (s.shr.getLsbD (s0.cfg.wireBit j)) :=
        List.map_congr_left fun j hj => by rw [h.holds.bits_eq (List.mem_range.1 hj)]
      rw [List.map_append, h.steps, frameSteps, hbits]
      rfl
    peer := fun hrouted => by
      refine .inr ?_
      have hpeer := h.peer hrouted
      rw [← peerOutputs, peerOutputs_append, hpeer]
      rfl
    rxb := (finishFrame_rxb s).trans (h.deliver_rxb hcfg rfl rfl rfl) }

variable (hpins : s0.pinsRouted = true → s.pinsRouted = true)
include hpins

/-- One more bit: the peer is given the next bit of the call's byte. -/
theorem Sending.shift (h : Sending c s0 l s b k) {m : Bool}
    (hexec : exec (.hwShift m) s = .next t) :
    Sending c s0 (l ++ [(.hwShift m, t.output)]) t (fun j => if j = k then m else b j) (k + 1) := by
  obtain ⟨htakes, rfl⟩ := exec_next_iff.1 hexec
  obtain ⟨-, -, hlt⟩ := shiftEnabled_iff.1 htakes
  have hk : k < 8 := h.bitcnt ▸ hlt
  have hbits : ∀ j, j < k → (if j = k then m else b j) = b j := fun j hj => if_neg (Nat.ne_of_lt hj)
  have hlast : (if k = k then m else b k) = m := if_pos rfl
  exact {
    empty := h.empty
    shifting := h.shifting
    bitcnt := (bitcnt_succ hlt).trans (congrArg (· + 1) h.bitcnt)
    holds := by
      have hnext := (h.holds.congr hbits).shiftIn hk
      rw [hlast, ← hcfg] at hnext
      rwa [← hcfg]
    steps := by
      rw [frameSteps_succ hbits, hlast, List.map_append, h.steps]
      rfl
    peer := fun hrouted => by
      have hgives : s.gives (.hwShift m) = .peerBit (c.byte.getLsbD (s0.cfg.wireBit k)) := by
        rw [State.gives, toPeer, if_pos (hpins hrouted), hcfg, h.holds.lineBit_eq hk]
      rw [State.withOutput_output, hgives, peerOutputs_append, h.peer hrouted, peerBits, peerBits,
        List.range_succ, List.map_append]
      rfl
    rxb := h.rxb
    rxbFull := h.rxbFull }

/-- HW_FRAME runs the whole frame, which is taken before its first bit only. -/
theorem Sending.wholeFrame (h : Sending c s0 l s b k) {r : Byte}
    (hexec : exec (.hwFrame r) s = .next t) :
    Sent c s0 (l ++ [(.hwFrame r, t.output)]) t r := by
  obtain ⟨htakes, rfl⟩ := exec_next_iff.1 hexec
  obtain ⟨-, -, hzero⟩ := frameEnabled_iff.1 htakes
  obtain rfl : 0 = k := by rw [← h.bitcnt, hzero]; rfl
  have hshr : s.shr = c.byte := byte_ext_wire fun j hj => (h.holds j hj).trans (if_pos hj)
  exact {
    quiet := quiet_finishFrame (s := s.fillFrame r) h.empty
    frame := by
      refine .inl ?_
      rw [List.map_append, h.steps]
      rfl
    peer := fun hrouted => by
      have hgives : s.gives (.hwFrame r) = .peerByte c.byte := by
        rw [State.gives, toPeer, if_pos (hpins hrouted), hshr]
      refine .inl ?_
      rw [State.withOutput_output, hgives, ← peerOutputs, peerOutputs_append, h.peer hrouted]
      rfl
    rxb := (finishFrame_rxb _).trans (h.deliver_rxb (u := s.fillFrame r) hcfg rfl rfl rfl) }

theorem Sending.seq (h : Sending c s0 l s b k) {i : Instr} (hi : i.agent = .seq)
    (hexec : exec i s = .next t) :
    (∃ b k, Sending c s0 (l ++ [(i, t.output)]) t b k) ∨
      ∃ R, Sent c s0 (l ++ [(i, t.output)]) t R := by
  obtain ⟨-, -, hidle, -⟩ | ⟨m, rfl, -⟩ | ⟨rfl, -⟩ | ⟨r, rfl, -⟩ :=
    takes_seq_cases hi (takes_of_next hexec)
  · exact absurd (h.shifting.symm.trans hidle) nofun
  · exact .inl ⟨_, _, h.shift hcfg hpins hexec⟩
  · exact .inr ⟨_, h.complete hcfg hexec⟩
  · exact .inr ⟨_, h.wholeFrame hcfg hpins hexec⟩

theorem FrameAt.seq {p : Position} {i : Instr} (h : FrameAt c s0 l s p) (hi : i.agent = .seq)
    (hexec : exec i s = .next t) : FrameAt c s0 (l ++ [(i, t.output)]) t p := by
  have hno : Machine.quiet s ≠ true := fun hq => no_seq_of_quiet hq hi (takes_of_next hexec)
  have hsending : (∃ b k, Sending c s0 l s b k) ∨ (∃ R, Sent c s0 l s R) →
      (∃ b k, Sending c s0 (l ++ [(i, t.output)]) t b k) ∨
        ∃ R, Sent c s0 (l ++ [(i, t.output)]) t R := by
    rintro (⟨b, k, h⟩ | ⟨R, h⟩)
    · exact h.seq hcfg hpins hi hexec
    · exact absurd h.quiet hno
  cases p with
  | pollTxe | writeDr => exact absurd h.1 hno
  | pollLoaded =>
    obtain hstaged | h := h
    · exact .inr (.inl ⟨_, _, hstaged.seq hi hexec⟩)
    · exact .inr (hsending h)
  | pollBsy => exact hsending h
  | pollRxne | readDr | returned =>
    obtain ⟨R, h⟩ := h
    exact absurd h.quiet hno

end

/-! ### Along a run of the call -/

/-- What every move of a call keeps, the SEQ steps taken so far included, holds at the end of a
run. -/
theorem CallRun.keeps {may : Instr → Prop} {c : Call}
    {P : List (Instr × Output) → Position × State → Prop}
    (hhost : ∀ l p s q, P l (p, s) → hostMove c p s = .next q → P l q)
    (hseq : ∀ l p s i t, P l (p, s) → i.agent = .seq → exec i s = .next t →
      P (l ++ [(i, t.output)]) (p, t))
    (henv : ∀ l p s i t, P l (p, s) → i.agent = .env → may i → exec i s = .next t → P l (p, t))
    {l l' : List (Instr × Output)} {x y : Position × State} (h : CallRun may c l x y)
    (hx : P l' x) : P (l' ++ l) y := by
  induction h generalizing l' with
  | here => rwa [List.append_nil]
  | host hmove _ ih => exact ih (hhost _ _ _ _ hx hmove)
  | seq hi hexec _ ih =>
    rw [List.append_cons]
    exact ih (hseq _ _ _ _ _ hx hi hexec)
  | env hi hmay hexec _ ih => exact ih (henv _ _ _ _ _ hx hi hmay hexec)

/-- A move without a reset leaves routed pins routed (10_state.md R29). -/
theorem move_keeps_pins {c : Call} {p q : Position} {s t : State} (hpins : s.pinsRouted = true)
    (h : MoveWithoutReset c (p, s) (q, t)) : t.pinsRouted = true := by
  have hexec {i : Instr} (hreset : i ≠ .envReset) (he : exec i s = .next t) :
      t.pinsRouted = true := by
    obtain ⟨o, rfl⟩ := exec_next he
    obtain e | ⟨-, e⟩ | ⟨rfl, -⟩ := after_pinsRouted_cases s i
    · exact e.trans hpins
    · exact e
    · exact absurd rfl hreset
  cases h with
  | host hmove =>
    obtain ⟨-, -, rfl⟩ | ⟨i, hi, he, -⟩ := hostMove_next_iff.1 hmove
    · exact hpins
    · exact hexec (by rintro rfl; cases (hostInstr_agent hi).1) he
  | seq hi he => exact hexec (by rintro rfl; cases hi) he
  | env _ hreset he => exact hexec hreset he

/-- A call that began in s0 stands at p beside s, and l lists the SEQ steps taken. -/
structure CallSoFar (c : Call) (s0 : State) (l : List (Instr × Output)) (x : Position × State) :
    Prop where
  inCall : InCall c x.1 x.2
  cfg : x.2.cfg = s0.cfg
  cr : x.2.cr = s0.cr
  pins : s0.pinsRouted = true → x.2.pinsRouted = true
  frame : FrameAt c s0 l x.2 x.1

section
variable {c : Call} {s0 : State} (hsr : s0.cfg.SrWF) (hw : s0.cfg.WidthsWF)
include hsr hw

/-- Whoever moves, all but the frame is kept by the laws of the call's moves. -/
theorem CallSoFar.move {l l' : List (Instr × Output)} {p q : Position} {s t : State}
    (h : CallSoFar c s0 l (p, s)) (hmove : MoveWithoutReset c (p, s) (q, t))
    (hframe : FrameAt c s0 l' t q) : CallSoFar c s0 l' (q, t) := by
  obtain ⟨hin, hcfg, hcr, hpins, -⟩ := h
  obtain ⟨hin', hcfg', hcr'⟩ := hin.move (hcfg ▸ hsr) (hcfg ▸ hw) hmove
  exact ⟨hin', hcfg'.trans hcfg, hcr'.trans hcr, fun hr => move_keeps_pins (hpins hr) hmove, hframe⟩

theorem CallSoFar.of_run {l : List (Instr × Output)} {y : Position × State}
    (hactive : active s0 = true) (hquiet : quiet s0 = true)
    (hrun : CallRun NoReset c l (.pollTxe, s0) y) : CallSoFar c s0 l y := by
  have hstart : CallSoFar c s0 [] (.pollTxe, s0) :=
    ⟨⟨hactive, hquiet⟩, rfl, rfl, id, hquiet, rfl, rfl, rfl⟩
  refine CallRun.keeps (P := CallSoFar c s0) (fun l p s q h hmove => ?_)
    (fun l p s i t h hi hexec => ?_) (fun l p s i t h hi hreset hexec => ?_) hrun hstart
  · have hcfg : s.cfg = s0.cfg := h.cfg
    exact h.move hsr hw (.host hmove)
      (h.frame.hostMove (hostMoves_of_hostMove (hcfg ▸ hsr) (hcfg ▸ hw) hmove))
  · exact h.move hsr hw (.seq hi hexec) (h.frame.seq h.cfg h.pins hi hexec)
  · obtain ⟨e, -⟩ | hsame := env_moves hi hexec
    · exact absurd e hreset
    · exact h.move hsr hw (.env hi hreset hexec) (h.frame.congr hsame)

end

end Sys2Proof.Safety

namespace Sys2Proof.Proofs

open Sys2Proof.Machine Sys2Proof.Safety

/-- Settles O56: by induction on the run (`CallSoFar.of_run`), a call has returned only when its
frame is over. -/
theorem transferReturnsThePeersByte : Obligations.TransferReturnsThePeersByte := by
  unfold Obligations.TransferReturnsThePeersByte
  intro c s t r l hsr hw hactive hquiet hrun
  obtain ⟨⟨-, (hbeside : Beside c (.returned r) t)⟩, -, hcr, -, R, (hsent : Sent c s l t R)⟩ :=
    CallSoFar.of_run hsr hw hactive hquiet hrun
  obtain ⟨hempty, hphase⟩ := quiet_iff.1 hsent.quiet
  have hresult : r = (if c.reads then some t.rxb else none) ∧ rxne t = !c.reads := by
    cases r with
    | none =>
      obtain ⟨hreads, -, hrxb⟩ := hbeside
      simp [hreads, rxne, hrxb]
    | some b =>
      obtain ⟨hreads, -, hrxb, hb⟩ := hbeside
      simp [hreads, rxne, hrxb, hb]
  have hflags : txe t = true ∧ bsy t = false := by simp [txe, bsy, hempty, hphase]
  exact ⟨R, hsent.frame, hsent.peer, hsent.rxb, hresult.1, hresult.2, hflags.1, hflags.2, hcr⟩

end Sys2Proof.Proofs
